-- ==== Sys2Proof/Word.lean ====
section
/-! DEFINITION. The word types of the block: bytes of the input space, the fields read from it, samples and codes
(00_scope.md R8). -/

namespace Sys2Proof

/-- A byte of the input space `IN` (R8, R35). -/
abbrev Byte := BitVec 8

/-- The spec's `u16`: record type and format codes, step sizes (R8). -/
abbrev Half := BitVec 16

/-- The spec's `u32`: payload sizes, sample counts (R8). -/
abbrev Word32 := BitVec 32

/-- The spec's `i16`, a 16-bit pattern whose signed reading is `BitVec.toInt`: `x[PS]`, `W_PS`, a cell of `OUT`
(R8, R20, R33). -/
abbrev Sample := BitVec 16

/-- A 4-bit ADPCM code (R86). -/
abbrev Code := BitVec 4

end Sys2Proof
end

