-- ==== Sys2Proof/Machine/Tables.lean ====
section
/-! DEFINITION. The constants of 00_scope.md R6 and the two read-only tables of 10_state.md R34. -/

namespace Sys2Proof.Machine

/-- `HDR_SIZE`: byte size of the container header (R6). -/
def hdrSize : Nat := 0x3C

/-- `REC_HDR_SIZE`: byte size of a record header (R6). -/
def recHdrSize : Nat := 8

/-- `AUDIO_SUBHDR_SIZE`: byte size of the audio sub-header (R6). -/
def audioSubHdrSize : Nat := 4

/-- `SI_MAX`: the largest legal step index (R6). -/
def siMax : Nat := 88

/-- `PCM_MIN` (R6). -/
def pcmMin : Int := -32768

/-- `PCM_MAX` (R6). -/
def pcmMax : Int := 32767

/-- `SIGNATURE`: the 16 bytes a container must open with, the first one most significant (R6, R112). -/
def signature : BitVec 128 := 0x4856514D3220312E3000000000000000#128

/-- `INDEX_DELTA[0..15]` (R6, R141). -/
def indexDeltaTable : List Int :=
  [-1, -1, -1, -1, 2, 4, 6, 8, -1, -1, -1, -1, 2, 4, 6, 8]

/-- The default `STEP_TABLE` (R142; PRESUMED: the spec marks its values as general knowledge, log 11). -/
def defaultStepTable : List Half :=
  [7, 8, 9, 10, 11, 12, 13, 14, 16, 17]
  ++ [19, 21, 23, 25, 28, 31, 34, 37, 41, 45]
  ++ [50, 55, 60, 66, 73, 80, 88, 97, 107, 118]
  ++ [130, 143, 157, 173, 190, 209, 230, 253, 279, 307]
  ++ [337, 371, 408, 449, 494, 544, 598, 658, 724, 796]
  ++ [876, 963, 1060, 1166, 1282, 1411, 1552, 1707, 1878, 2066]
  ++ [2272, 2499, 2749, 3024, 3327, 3660, 4026, 4428, 4871, 5358]
  ++ [5894, 6484, 7132, 7845, 8630, 9493, 10442, 11487, 12635, 13899]
  ++ [15289, 16818, 18500, 20350, 22385, 24623, 27086, 29794, 32767]

/-- The default widths of header fields 1 to 18 (R83; PRESUMED: the spec marks them as general knowledge, log 12). -/
def defaultLayout : List Nat :=
  [4, 2, 2, 1, 1, 1, 1, 4, 4, 4, 4, 1, 1, 1, 1, 4, 4, 4]

end Sys2Proof.Machine
end

