-- ==== Sys2Proof/Config.lean ====
section
/-! DEFINITION. What an implementation fixes (00_scope.md R7: parameters the model takes as arguments) and the free
values: opaque constants with no body, about which nothing can be proved but their type. -/

namespace Sys2Proof

/-- The parameters of R7 that every run of one block shares (R42): the seven type and format codes, `STEP_TABLE`, and
`HDR_LAYOUT` as the widths in bytes of header fields 1 to 18 (the tag is 16 bytes at offset 0 and the fields are
contiguous, so the widths give the offsets, R83). The defaults are `defaultConfig` in Decode.lean. -/
structure Config where
  /-- `CODE_AUDIO` -/
  codeAudio : Half
  /-- `CODE_VIDEO` -/
  codeVideo : Half
  /-- `FMT_AUDIO_KEYFRAME` -/
  fmtAudioKeyframe : Half
  /-- `FMT_AUDIO_PREDICT` -/
  fmtAudioPredict : Half
  /-- `FMT_VIDEO_KEYFRAME` -/
  fmtVideoKeyframe : Half
  /-- `FMT_VIDEO_PREDICT` -/
  fmtVideoPredict : Half
  /-- `FMT_VIDEO_HOLD` -/
  fmtVideoHold : Half
  /-- `STEP_TABLE[0..88]` -/
  stepTable : List Half
  /-- The widths in bytes of fields 1 to 18 of `HDR_LAYOUT` -/
  layout : List Nat
deriving DecidableEq, Repr

/-- The codes of one enumeration are distinct (R7). -/
def Config.codesDistinct (c : Config) : Bool :=
  c.codeAudio != c.codeVideo && c.fmtAudioKeyframe != c.fmtAudioPredict
    && c.fmtVideoKeyframe != c.fmtVideoPredict && c.fmtVideoKeyframe != c.fmtVideoHold
    && c.fmtVideoPredict != c.fmtVideoHold

/-- 89 step sizes of 16 bits, the first 7 and the last 32767 (R7). -/
def Config.stepsAdmitted (c : Config) : Bool :=
  c.stepTable.length == 89 && c.stepTable[0]? == some 7 && c.stepTable[88]? == some 32767

/-- 18 fields of 1, 2 or 4 bytes (R56) that fill the 0x3C bytes after the 16-byte tag (R7, R83). -/
def Config.layoutAdmitted (c : Config) : Bool :=
  c.layout.length == 18 && c.layout.all (fun w => w == 1 || w == 2 || w == 4) && c.layout.sum == 44

/-- The side conditions R7 puts on the parameters. -/
def Config.legal (c : Config) : Bool :=
  c.codesDistinct && c.stepsAdmitted && c.layoutAdmitted

/-- `INIT_PS`: the value of `x[PS]` before the first audio record, OPEN in the spec (R7, R23). DESIGN CHOICE, log 3. -/
opaque Config.initPs : Sample

/-- `INIT_SI`: the value of `x[SI]` before the first audio record, OPEN in the spec, in 0..88 (R7, R23).
DESIGN CHOICE, log 3. -/
opaque Config.initSi : Fin 89

/-- Free value: `x[PS]` after a fault inside an audio record, "any i16" (R222, U3); log 7. -/
opaque Config.freePs : Nat → Sample

/-- Free value: `x[SI]` after a fault inside an audio record, "any value 0..88" (R222, U3); log 7. -/
opaque Config.freeSi : Nat → Fin 89

/-- Free value: how many cells of the faulting record's output are there after the fault (R222, U3); log 7. -/
opaque Config.freeCount : Nat → Nat

/-- Free value: the contents of those cells, "any i16" (R222, U3); log 7. -/
opaque Config.freeCell : Nat → Nat → Sample

/-- Free value: what the host reads from a record register after the fetch that ends its validity (R29), by the register's place
in R29's list and the value of `REC_INDEX`; log 24. -/
opaque Config.staleReg : Nat → Nat → Nat

end Sys2Proof
end

