-- ==== Sys2Proof/Syntax.lean ====
section
/-! DEFINITION. The 22 operations of spec/opcode_table.json (30_encoding.md R80, R92), one constructor each, with the
operands their encodings carry. -/

namespace Sys2Proof

/-- The 19 fields of the container header, in the source's order (R27, R83). A field 1 to 18 is an unsigned value of at
most the four bytes the widest field of `HDR_LAYOUT` may have (R56); log 14. -/
structure Header where
  /-- `H_TAG` -/
  tag : BitVec 128
  /-- `H_FILE_SIZE` -/
  fileSize : Word32
  /-- `H_WIDTH` -/
  width : Word32
  /-- `H_HEIGHT` -/
  height : Word32
  /-- `H_H_SAMPLING` -/
  hSampling : Word32
  /-- `H_V_SAMPLING` -/
  vSampling : Word32
  /-- `H_Y_SHIFT` -/
  yShift : Word32
  /-- `H_VIDEO_Q_SHIFT` -/
  videoQShift : Word32
  /-- `H_TOTAL_FRAMES` -/
  totalFrames : Word32
  /-- `H_USEC_PER_FRAME` -/
  usecPerFrame : Word32
  /-- `H_MAX_FRAME_SIZE` -/
  maxFrameSize : Word32
  /-- `H_MAX_SP_PACKETS` -/
  maxSpPackets : Word32
  /-- `H_AUDIO_FORMAT` -/
  audioFormat : Word32
  /-- `H_CHANNELS` -/
  channels : Word32
  /-- `H_SAMPLE_BITS` -/
  sampleBits : Word32
  /-- `H_AUDIO_Q_STEP` -/
  audioQStep : Word32
  /-- `H_TOTAL_AUDIO_RECORDS` -/
  totalAudioRecords : Word32
  /-- `H_SAMPLES_PER_SEC` -/
  samplesPerSec : Word32
  /-- `H_MAX_AUDIO_RECORD_SIZE` -/
  maxAudioRecordSize : Word32
deriving DecidableEq, Repr

/-- Fields 1 to 18, in order, as numbers (R83). -/
def Header.fields (h : Header) : List Nat :=
  [h.fileSize.toNat, h.width.toNat, h.height.toNat, h.hSampling.toNat, h.vSampling.toNat, h.yShift.toNat,
   h.videoQShift.toNat, h.totalFrames.toNat, h.usecPerFrame.toNat, h.maxFrameSize.toNat, h.maxSpPackets.toNat,
   h.audioFormat.toNat, h.channels.toNat, h.sampleBits.toNat, h.audioQStep.toNat, h.totalAudioRecords.toNat,
   h.samplesPerSec.toNat, h.maxAudioRecordSize.toNat]

/-- A record header as read (R81): type, format, payload size. -/
structure RecHeader where
  typ : Half
  fmt : Half
  size : Word32
deriving DecidableEq, Repr

/-- What `RecType()` answers (R121). -/
inductive RecType where
  | audio
  | video
deriving DecidableEq, Repr

/-- The five record kinds, the values of `REC_KIND` (R29, R122). -/
inductive RecKind where
  | audioKeyframe
  | audioPredict
  | videoKeyframe
  | videoPredict
  | videoHold
deriving DecidableEq, Repr

/-- The nibble phase `PHASE` (R40): `high` is 0, the next code is the high nibble of `IN[INP]`; `low` is 1. -/
inductive Phase where
  | high
  | low
deriving DecidableEq, Repr

/-- The layouts of R80 that select an operation: the container header, a record header, and an ADPCM code standing in
one nibble of a byte. -/
inductive Format where
  | ch
  | rh
  | nb (p : Phase)
deriving DecidableEq, Repr

/-- The operations (R92). `hdr` carries the 60 bytes' fields, the record operations the payload size of their header;
the sample count and the seed are operands that the operation itself reads, after the window test (R195). -/
inductive Instr where
  | hdr (h : Header)
  | akey (size : Word32)
  | apred (size : Word32)
  | vkey (size : Word32)
  | vpred (size : Word32)
  | vhold (size : Word32)
  | c0
  | c1
  | c2
  | c3
  | c4
  | c5
  | c6
  | c7
  | c8
  | c9
  | cA
  | cB
  | cC
  | cD
  | cE
  | cF
deriving DecidableEq, Repr

end Sys2Proof
end

