-- ==== Sys2Proof/WellFormed.lean ====
section
/-! DEFINITION. Which terms of `Instr` stand for an encoding: a header field must fit the width `HDR_LAYOUT` gives it
(30_encoding.md R83). Every record size and every code is legal (R89). -/

namespace Sys2Proof

/-- Each value fits its width in bytes, and there are as many values as widths (R83). -/
def fieldsFit : List Nat → List Nat → Bool
  | [], [] => true
  | w :: ws, v :: vs => decide (v < 256 ^ w) && fieldsFit ws vs
  | _, _ => false

/-- `i` is an instruction some encoding stands for, under the parameters `cfg`. -/
def wellFormed (cfg : Config) : Instr → Bool
  | .hdr h => fieldsFit cfg.layout h.fields
  | .akey _ => true
  | .apred _ => true
  | .vkey _ => true
  | .vpred _ => true
  | .vhold _ => true
  | .c0 => true
  | .c1 => true
  | .c2 => true
  | .c3 => true
  | .c4 => true
  | .c5 => true
  | .c6 => true
  | .c7 => true
  | .c8 => true
  | .c9 => true
  | .cA => true
  | .cB => true
  | .cC => true
  | .cD => true
  | .cE => true
  | .cF => true

end Sys2Proof
end

