-- ==== Sys2Proof/Decode.lean ====
section
/-! DEFINITION. Decoding (30_encoding.md R80 to R89, 41_record_header.md R121 to R123), total on any bytes and rejecting
by name, and after it the encoder written from the same tables. -/

namespace Sys2Proof

/-- R7's recommended defaults of the parameters (PRESUMED: the spec marks codes, table and layout as general knowledge,
log 10, 11, 12). -/
def defaultConfig : Config where
  codeAudio := 0
  codeVideo := 1
  fmtAudioKeyframe := 0
  fmtAudioPredict := 1
  fmtVideoKeyframe := 0
  fmtVideoPredict := 1
  fmtVideoHold := 2
  stepTable := Machine.defaultStepTable
  layout := Machine.defaultLayout

/-- Why bytes are no instruction. -/
inductive Reject where
  /-- fewer bytes than the format has -/
  | short
  /-- a record type that is neither `CODE_AUDIO` nor `CODE_VIDEO` (R121) -/
  | unknownType
  /-- a format that is none of the decoded type's (R122) -/
  | unknownFormat
deriving DecidableEq, Repr

/-! ### Byte order and fields -/

/-- The big-endian value of a list of bytes: the byte at the lowest offset is the most significant (R51). -/
def beNat : List Byte → Nat
  | [] => 0
  | b :: bs => b.toNat * 256 ^ bs.length + beNat bs

/-- The `n` bytes of the big-endian layout of `v` (R51). -/
def beBytes : Nat → Nat → List Byte
  | 0, _ => []
  | n + 1, v => BitVec.ofNat 8 (v / 256 ^ n) :: beBytes n v

/-- Consecutive big-endian fields of the given widths (R83). -/
def splitFields : List Nat → List Byte → List Nat
  | [], _ => []
  | w :: ws, bs => beNat (bs.take w) :: splitFields ws (bs.drop w)

/-- The bytes of consecutive big-endian fields of the given widths (R83). -/
def joinFields : List Nat → List Nat → List Byte
  | w :: ws, v :: vs => beBytes w v ++ joinFields ws vs
  | _, _ => []

/-- The header whose tag and whose fields 1 to 18 are given (R83). -/
def headerOf (tag : BitVec 128) (f : List Nat) : Header where
  tag := tag
  fileSize := BitVec.ofNat 32 (f.getD 0 0)
  width := BitVec.ofNat 32 (f.getD 1 0)
  height := BitVec.ofNat 32 (f.getD 2 0)
  hSampling := BitVec.ofNat 32 (f.getD 3 0)
  vSampling := BitVec.ofNat 32 (f.getD 4 0)
  yShift := BitVec.ofNat 32 (f.getD 5 0)
  videoQShift := BitVec.ofNat 32 (f.getD 6 0)
  totalFrames := BitVec.ofNat 32 (f.getD 7 0)
  usecPerFrame := BitVec.ofNat 32 (f.getD 8 0)
  maxFrameSize := BitVec.ofNat 32 (f.getD 9 0)
  maxSpPackets := BitVec.ofNat 32 (f.getD 10 0)
  audioFormat := BitVec.ofNat 32 (f.getD 11 0)
  channels := BitVec.ofNat 32 (f.getD 12 0)
  sampleBits := BitVec.ofNat 32 (f.getD 13 0)
  audioQStep := BitVec.ofNat 32 (f.getD 14 0)
  totalAudioRecords := BitVec.ofNat 32 (f.getD 15 0)
  samplesPerSec := BitVec.ofNat 32 (f.getD 16 0)
  maxAudioRecordSize := BitVec.ofNat 32 (f.getD 17 0)

/-- Format `CH`: the tag, then the fields `HDR_LAYOUT` gives, all big-endian and unsigned (R83, R110). -/
def splitHeader (cfg : Config) (bs : List Byte) : Header :=
  headerOf (BitVec.ofNat 128 (beNat (bs.take 16))) (splitFields cfg.layout (bs.drop 16))

/-- Format `RH`: "u16 type, u16 format, u32 size (big-endian)" (R81, R120). -/
def splitRecHeader (bs : List Byte) : RecHeader where
  typ := BitVec.ofNat 16 (beNat (bs.take 2))
  fmt := BitVec.ofNat 16 (beNat ((bs.drop 2).take 2))
  size := BitVec.ofNat 32 (beNat ((bs.drop 4).take 4))

/-- The nibble of a stream byte that holds the code at a phase: `b[7:4]` first, then `b[3:0]` (R87, R145). -/
def nibble : Phase → Byte → Code
  | .high, b => b.extractLsb' 4 4
  | .low, b => b.extractLsb' 0 4

/-! ### Record type, format and kind -/

/-- `RecType()` (R121). -/
def recType (cfg : Config) (t : Half) : Except Reject RecType :=
  if t = cfg.codeAudio then .ok .audio
  else if t = cfg.codeVideo then .ok .video
  else .error .unknownType

/-- `RecFormat(t)` (R122). -/
def recFormat (cfg : Config) (f : Half) : RecType → Except Reject RecKind
  | .audio =>
    if f = cfg.fmtAudioKeyframe then .ok .audioKeyframe
    else if f = cfg.fmtAudioPredict then .ok .audioPredict
    else .error .unknownFormat
  | .video =>
    if f = cfg.fmtVideoKeyframe then .ok .videoKeyframe
    else if f = cfg.fmtVideoPredict then .ok .videoPredict
    else if f = cfg.fmtVideoHold then .ok .videoHold
    else .error .unknownFormat

/-- `RecFormat(RecType())`: the type is decoded first (R123). -/
def recKind (cfg : Config) (h : RecHeader) : Except Reject RecKind :=
  match recType cfg h.typ with
  | .ok t => recFormat cfg h.fmt t
  | .error r => .error r

/-- The record operation of a kind (R82, R191). -/
def kindInstr : RecKind → Word32 → Instr
  | .audioKeyframe, z => .akey z
  | .audioPredict, z => .apred z
  | .videoKeyframe, z => .vkey z
  | .videoPredict, z => .vpred z
  | .videoHold, z => .vhold z

/-- The type and format codes of a kind (R82). -/
def kindHeader (cfg : Config) : RecKind → Word32 → RecHeader
  | .audioKeyframe, z => ⟨cfg.codeAudio, cfg.fmtAudioKeyframe, z⟩
  | .audioPredict, z => ⟨cfg.codeAudio, cfg.fmtAudioPredict, z⟩
  | .videoKeyframe, z => ⟨cfg.codeVideo, cfg.fmtVideoKeyframe, z⟩
  | .videoPredict, z => ⟨cfg.codeVideo, cfg.fmtVideoPredict, z⟩
  | .videoHold, z => ⟨cfg.codeVideo, cfg.fmtVideoHold, z⟩

/-- The code micro-operation of a 4-bit code: all sixteen values are legal (R86). -/
def codeInstr (c : Code) : Instr :=
  match c.toNat with
  | 0 => .c0
  | 1 => .c1
  | 2 => .c2
  | 3 => .c3
  | 4 => .c4
  | 5 => .c5
  | 6 => .c6
  | 7 => .c7
  | 8 => .c8
  | 9 => .c9
  | 10 => .cA
  | 11 => .cB
  | 12 => .cC
  | 13 => .cD
  | 14 => .cE
  | _ => .cF

/-! ### The decoder -/

/-- Format `CH` (R83, R110): selected by position, every tag decodes; the operation compares it (R112). -/
def decodeCh (cfg : Config) (bs : List Byte) : Except Reject Instr :=
  if bs.length < Machine.hdrSize then .error .short else .ok (.hdr (splitHeader cfg bs))

/-- Format `RH` (R81, R82). -/
def decodeRh (cfg : Config) (bs : List Byte) : Except Reject Instr :=
  if bs.length < Machine.recHdrSize then .error .short
  else
    match recKind cfg (splitRecHeader bs) with
    | .ok k => .ok (kindInstr k (splitRecHeader bs).size)
    | .error r => .error r

/-- Format `NB` (R86, R87). -/
def decodeNb (p : Phase) : List Byte → Except Reject Instr
  | [] => .error .short
  | b :: _ => .ok (codeInstr (nibble p b))

/-- The instruction the bytes stand for where the walker expects the format (R80). -/
def decode (cfg : Config) : Format → List Byte → Except Reject Instr
  | .ch, bs => decodeCh cfg bs
  | .rh, bs => decodeRh cfg bs
  | .nb p, bs => decodeNb p bs

/-! ### The encoder -/

/-- The bytes of a record header (R81). -/
def encodeRecHeader (h : RecHeader) : List Byte :=
  beBytes 2 h.typ.toNat ++ beBytes 2 h.fmt.toNat ++ beBytes 4 h.size.toNat

/-- A stream byte with the code in its high nibble and 0 in its low nibble (R87, R91). -/
def encodeCode (c : Code) : List Byte := [c ++ (0 : BitVec 4)]

/-- The bytes of an instruction (R80 to R87). -/
def encode (cfg : Config) : Instr → List Byte
  | .hdr h => beBytes 16 h.tag.toNat ++ joinFields cfg.layout h.fields
  | .akey z => encodeRecHeader (kindHeader cfg .audioKeyframe z)
  | .apred z => encodeRecHeader (kindHeader cfg .audioPredict z)
  | .vkey z => encodeRecHeader (kindHeader cfg .videoKeyframe z)
  | .vpred z => encodeRecHeader (kindHeader cfg .videoPredict z)
  | .vhold z => encodeRecHeader (kindHeader cfg .videoHold z)
  | .c0 => encodeCode 0x0
  | .c1 => encodeCode 0x1
  | .c2 => encodeCode 0x2
  | .c3 => encodeCode 0x3
  | .c4 => encodeCode 0x4
  | .c5 => encodeCode 0x5
  | .c6 => encodeCode 0x6
  | .c7 => encodeCode 0x7
  | .c8 => encodeCode 0x8
  | .c9 => encodeCode 0x9
  | .cA => encodeCode 0xA
  | .cB => encodeCode 0xB
  | .cC => encodeCode 0xC
  | .cD => encodeCode 0xD
  | .cE => encodeCode 0xE
  | .cF => encodeCode 0xF

/-- Where the encoding of an instruction stands: the format `encode` writes (R80). -/
def formatOf : Instr → Format
  | .hdr _ => .ch
  | .akey _ => .rh
  | .apred _ => .rh
  | .vkey _ => .rh
  | .vpred _ => .rh
  | .vhold _ => .rh
  | .c0 => .nb .high
  | .c1 => .nb .high
  | .c2 => .nb .high
  | .c3 => .nb .high
  | .c4 => .nb .high
  | .c5 => .nb .high
  | .c6 => .nb .high
  | .c7 => .nb .high
  | .c8 => .nb .high
  | .c9 => .nb .high
  | .cA => .nb .high
  | .cB => .nb .high
  | .cC => .nb .high
  | .cD => .nb .high
  | .cE => .nb .high
  | .cF => .nb .high

/-- An ADPCM code micro-operation. -/
def isCode (i : Instr) : Bool := formatOf i == .nb .high

/-! ### Words of the opcode table -/

/-- The bytes at which the format of a table row of `nbits` bits stands, for the row's word `w`: the table reads a layout as one
big-endian integer (R80), and a 4-bit code is laid in the high nibble, the earlier one (R87); log 13. -/
def tableBytes (nbits w : Nat) : Option (Format × List Byte) :=
  if nbits = 480 then some (.ch, beBytes 60 w)
  else if nbits = 64 then some (.rh, beBytes 8 w)
  else if (nbits = 4 ∨ nbits = 8) ∧ w < 16 then some (.nb .high, encodeCode (BitVec.ofNat 4 w))
  else none

/-- What the decoder reads from a word numbered as spec/opcode_table.json numbers it. -/
def decodeTableWord (nbits w : Nat) : Option Instr :=
  match tableBytes nbits w with
  | none => none
  | some (f, bs) =>
    match decode defaultConfig f bs with
    | .ok i => some i
    | .error _ => none

end Sys2Proof
end

