-- ==== Sys2Proof/Machine/State.lean ====
section
/-! DEFINITION. The state of the block (10_state.md), its reset value (R44), and the reasons a step can stop. -/

namespace Sys2Proof.Machine

/-- A byte memory in canonical form: addresses strictly rising, no listed byte 0; an unlisted address reads as 0
(log 6). -/
abbrev Memory := List Host.Cell

/-- `RUN_STATE` (R31). -/
inductive RunState where
  | idle
  | walk
  | done
  | fault
deriving DecidableEq, Repr

/-- The fault causes (R210). -/
inductive FaultCause where
  | malformedHeader
  | unknownType
  | unknownFormat
  | outOfBounds
  | notAudio
  | stepIndexRange
  | badSampleCount
deriving DecidableEq, Repr

/-- `FAULT_CAUSE`, `FAULT_REC`, `FAULT_OFF`, written once and together (R32, R220). -/
structure FaultInfo where
  cause : FaultCause
  recNo : Nat
  off : Nat
deriving DecidableEq, Repr

/-- Which sub-step of R203 comes next in `WALK`: the loop test and a record fetch, or a code or the end of the audio
record being decoded. The model's own field, log 1. -/
inductive Seq where
  | fetch
  | decode
deriving DecidableEq, Repr

/-- What ADPCM mode a record decodes in (R124). -/
inductive AdpcmMode where
  | reset
  | continue
deriving DecidableEq, Repr

/-- The state of the block. A register that R44 gives "no value" holds the value the log names, beside a bit that says
whether the block has written it (log 4). The registers that can hold a free value stand last. -/
structure State where
  /-- `RUN_STATE` (R31) -/
  runState : RunState
  /-- the next sub-step in `WALK` (R203; the model's own, log 1) -/
  seq : Seq
  /-- the host's start command was given (R231, log 2) -/
  started : Bool
  /-- `FAULT_CAUSE`, `FAULT_REC`, `FAULT_OFF`: "Before a fault they hold no value" (R32, log 5) -/
  fault : Option FaultInfo
  /-- the cursor (R24) -/
  pc : Nat
  /-- `N_AUDIO` (R30) -/
  nAudio : Nat
  /-- `N_VIDEO` (R30) -/
  nVideo : Nat
  /-- `AUDIO_BYTES` (R30) -/
  audioBytes : Nat
  /-- `REC_INDEX` (R30) -/
  recIndex : Nat
  /-- the header registers (R27) -/
  hdr : Header
  /-- the header registers have been latched (R44, R113) -/
  hdrValid : Bool
  /-- `REC_TYPE` (R29) -/
  recType : Half
  /-- `REC_FORMAT` (R29) -/
  recFormat : Half
  /-- `REC_SIZE` (R29) -/
  recSize : Word32
  /-- `REC_TYPE`, `REC_FORMAT`, `REC_SIZE` have been written (R44) -/
  recValid : Bool
  /-- `REC_KIND` (R29) -/
  recKind : RecKind
  /-- `WIN_END` (R29) -/
  winEnd : Nat
  /-- `REC_KIND`, `WIN_END` have been written (R44) -/
  kindValid : Bool
  /-- `REC_SAMPLES` (R29) -/
  recSamples : Word32
  /-- `REC_SAMPLES` has been written (R44) -/
  samplesValid : Bool
  /-- `OUTP` as it was when the record began (R192) -/
  recStart : Nat
  /-- `REM` (R40) -/
  rem : Nat
  /-- `INP` (R40) -/
  inp : Nat
  /-- `PHASE` (R40) -/
  phase : Phase
  /-- `DUP` (R7, R42) -/
  dup : Bool
  /-- `BUF_LEN` (R7, R35) -/
  bufLen : Nat
  /-- `IN` (R35) -/
  input : Memory
  /-- the parameters that are fixed for a run (R7, R42) -/
  cfg : Config
  /-- `REC_OUT` (R33) -/
  recOut : List (Nat × Nat)
  /-- how many times the block has taken free values; the MODEL's own field (log 7) -/
  freeCtr : Nat
  /-- `W_PS` (R40) -/
  wPs : Sample
  /-- `W_SI` (R40) -/
  wSi : BitVec 8
  /-- `OUT[0 .. OUTP)` (R33) -/
  out : List Sample
  /-- `x[PS]` (R20) -/
  ps : Sample
  /-- `x[SI]` (R21) -/
  si : BitVec 8
deriving DecidableEq, Repr

/-- `OUTP`, "the number of cells written" (R33). -/
def State.outp (s : State) : Nat := s.out.length

/-- Why the machine stops with a fault of the model. No state that meets R21's invariant raises one; the spec's own
faults are next states in `FAULT` (R220). -/
inductive Fault where
  /-- a code micro-operation finds no entry `STEP_TABLE[W_SI]`: R21 keeps `W_SI` in 0..88 and R7 gives the table 89
  entries, so only a state outside those reaches this. Raised by `codeStep`. Safe (log 15). -/
  | noStepEntry
deriving DecidableEq, Repr

/-- Why an operation or a host move is refused. -/
inductive Refusal where
  /-- an instruction with no meaning yet; raised by `exec`'s refused arms only. Safe. -/
  | notModelled (mnemonic : String)
  /-- HDR outside its precondition "`RUN_STATE = IDLE` and `pc = 0`" (R110). Raised by `execHdr`; `step` never does. Safe
  (log 16). -/
  | headerOutOfSequence
  /-- a record operation while the walker is not between records (R190, R191). Raised by the five record operations; `step`
  never does. Safe (log 16). -/
  | recordOutOfSequence
  /-- a code micro-operation while no audio record with samples to produce is being decoded (R149). Raised by the sixteen
  code operations; `step` never does. Safe (log 16). -/
  | codeOutOfSequence
  /-- a start command in a state other than `IDLE`, or a second one (U8, R240). Raised by `hostStart`. Safe. -/
  | startNotIdle
  /-- a start command with an initial `x[SI]` above 88 (R7). Raised by `hostStart`. Safe. -/
  | initNotAdmitted
  /-- a host read of results before `DONE` or `FAULT`, or of `RUN_STATE` during a run (R64, D1). Raised by the host read port. Safe. -/
  | runNotEnded
  /-- a host read of a header register before the latch, or of a record register before the first record that writes it:
  "Reading a header or record register before it is written is refused by the model" (D1; R44, U4). Raised by the host read
  port. Safe. -/
  | noValue
deriving DecidableEq, Repr

/-- The contents of the header registers before they are latched: DESIGN CHOICE 0, log 4. -/
def Header.blank : Header := ⟨0, 0, 0, 0, 0, 0, 0, 0, 0, 0, 0, 0, 0, 0, 0, 0, 0, 0, 0⟩

/-- The block after a reset, before the start command (R44, R240, R241). -/
def State.reset : State where
  runState := .idle
  seq := .fetch
  started := false
  fault := none
  pc := 0
  nAudio := 0
  nVideo := 0
  audioBytes := 0
  recIndex := 0
  hdr := Header.blank
  hdrValid := false
  recType := 0
  recFormat := 0
  recSize := 0
  recValid := false
  recKind := .audioKeyframe
  winEnd := 0
  kindValid := false
  recSamples := 0
  samplesValid := false
  recStart := 0
  rem := 0
  inp := 0
  phase := .high
  dup := false
  bufLen := 0
  input := []
  cfg := defaultConfig
  recOut := []
  freeCtr := 0
  wPs := 0
  wSi := 0
  out := []
  ps := Config.initPs
  si := BitVec.ofNat 8 Config.initSi.val

end Sys2Proof.Machine
end

