-- ==== Sys2Proof/Machine/Flags.lean ====
section
/-! DEFINITION. The block has no status flags, condition codes or predicates (10_state.md R26): no operation computes one.
What an operation can depend on is where the run stands (`RUN_STATE`, R31, and the sub-step, R203); those conditions
are said here once. -/

namespace Sys2Proof.Machine

/-- HDR's precondition: "`RUN_STATE = IDLE` and `pc = 0`" (R110). -/
def headerDue (s : State) : Bool := s.runState == .idle && s.pc == 0

/-- The walker stands between two records (R190). -/
def recordDue (s : State) : Bool := s.runState == .walk && s.seq == .fetch

/-- An audio record is being decoded and `REM > 0` (R149). -/
def codeDue (s : State) : Bool := s.runState == .walk && s.seq == .decode && decide (0 < s.rem)

/-- The run has ended: `DONE` or `FAULT`, which no operation leaves (R31). -/
def runEnded (s : State) : Bool := s.runState == .done || s.runState == .fault

/-- A run is in progress: the start command was given and neither `DONE` nor `FAULT` is reached (R31, R231). -/
def runUnderway (s : State) : Bool := s.runState == .walk || (s.runState == .idle && s.started)

end Sys2Proof.Machine
end

