-- ==== Sys2Proof/Machine/Operands.lean ====
section
/-! DEFINITION. Operand assembly (30_encoding.md R85 to R88) and the decoder's integer arithmetic (42_adpcm_decoder.md R146,
R151): computed exactly on integers and narrowed once, by a clamp. -/

namespace Sys2Proof.Machine

/-- `clamp(v, lo, hi)` on integers, no wrap before the clamp (R9). -/
def clamp (v lo hi : Int) : Int :=
  if v < lo then lo else if hi < v then hi else v

/-- The initial sample of a Reset seed, the pattern `(byte0 << 8) | (byte1 & 0x80)` (R85, R144). -/
def seedSample (byte0 byte1 : Byte) : Sample := byte0 ++ (byte1 &&& 0x80#8)

/-- The initial step index of a Reset seed, `byte1 & 0x7F` (R85, R144). -/
def seedIndex (byte1 : Byte) : BitVec 8 := byte1 &&& 0x7F#8

/-- The magnitude of a code: `step >> 3`, plus `step >> 2`, `step >> 1`, `step` for bits 0, 1, 2, each shift truncated on
its own (R146). -/
def magnitude (c : Code) (step : Nat) : Nat :=
  (step >>> 3) + (if c.getLsbD 0 then step >>> 2 else 0) + (if c.getLsbD 1 then step >>> 1 else 0)
    + (if c.getLsbD 2 then step else 0)

/-- The signed difference of a code: bit 3 negates the magnitude (R146). -/
def difference (c : Code) (step : Nat) : Int :=
  if c.getLsbD 3 then -(magnitude c step : Int) else (magnitude c step : Int)

/-- `INDEX_DELTA[c]` (R141). -/
def indexDelta (c : Code) : Int := indexDeltaTable.getD c.toNat 0

/-- `clamp(W_PS + m, -32768, 32767)` (R146): "clamped output samples, never wraparound" (R168 (b)). -/
def nextSample (w : Sample) (m : Int) : Sample := BitVec.ofInt 16 (clamp (w.toInt + m) pcmMin pcmMax)

/-- `clamp(W_SI + INDEX_DELTA[c], 0, 88)` (R146): the index "never leaves [0, 88]" (R168 (c)). -/
def nextIndex (w : BitVec 8) (d : Int) : BitVec 8 := BitVec.ofInt 8 (clamp (w.toNat + d) 0 siMax)

/-- Is the kind an audio kind (R192)? -/
def isAudio : RecKind → Bool
  | .audioKeyframe => true
  | .audioPredict => true
  | .videoKeyframe => false
  | .videoPredict => false
  | .videoHold => false

/-- `AdpcmMode(k)` (R124). -/
def adpcmMode : RecKind → Except FaultCause AdpcmMode
  | .audioKeyframe => .ok .reset
  | .audioPredict => .ok .continue
  | .videoKeyframe => .error .notAudio
  | .videoPredict => .error .notAudio
  | .videoHold => .error .notAudio

/-- The fault cause of a rejected encoding (R120, R121, R122). -/
def rejectCause : Reject → FaultCause
  | .short => .outOfBounds
  | .unknownType => .unknownType
  | .unknownFormat => .unknownFormat

/-- The code of `FAULT_CAUSE` the host sees (R210). -/
def causeCode : FaultCause → Nat
  | .malformedHeader => 1
  | .unknownType => 2
  | .unknownFormat => 3
  | .outOfBounds => 4
  | .notAudio => 5
  | .stepIndexRange => 6
  | .badSampleCount => 7

end Sys2Proof.Machine
end

