-- ==== Sys2Proof/Machine/Ops.lean ====
section
/-! DEFINITION. The shared operations: memory and its read ports (20_memory.md), emission, the fault entry
(60_exceptions.md R220 to R222), and the pieces of a record's execution (41, 42, 43). -/

namespace Sys2Proof.Machine

/-! ### Byte memory -/

/-- One byte of a memory; an unlisted address reads as 0 (log 6). -/
def Memory.read : Memory → Nat → Byte
  | [], _ => 0
  | (k, v) :: m, a => if a = k then v else Memory.read m a

/-- Store one byte, keeping the canonical form: a 0 is not listed. -/
def Memory.write : Memory → Nat → Byte → Memory
  | [], a, b => if b = 0 then [] else [(a, b)]
  | (k, v) :: m, a, b =>
    if a < k then (if b = 0 then (k, v) :: m else (a, b) :: (k, v) :: m)
    else if a = k then (if b = 0 then m else (a, b) :: m)
    else (k, v) :: Memory.write m a b

/-- Store consecutive bytes from an address on. -/
def Memory.writeBytes : Memory → Nat → List Byte → Memory
  | m, _, [] => m
  | m, a, b :: bs => Memory.writeBytes (Memory.write m a b) (a + 1) bs

/-- The memory that holds exactly the given bytes from an address on. -/
def Memory.ofBytes : Nat → List Byte → Memory
  | _, [] => []
  | a, b :: bs => if b = 0 then Memory.ofBytes (a + 1) bs else (a, b) :: Memory.ofBytes (a + 1) bs

/-- The canonical form: addresses strictly rising and no listed byte 0. -/
def Memory.wf (m : Memory) : Bool :=
  decide (m.Pairwise fun c d => c.1 < d.1) && m.all fun c => c.2 != 0

/-- `n` consecutive bytes from an address on. -/
def Memory.readBytes (m : Memory) : Nat → Nat → List Byte
  | _, 0 => []
  | a, n + 1 => Memory.read m a :: Memory.readBytes m (a + 1) n

/-! ### The read ports -/

/-- The Byte Cursor's array read: the bytes at `a .. a+n-1`, or nothing when `a + n > BUF_LEN` (R50, R52). -/
def readBytes (s : State) (a n : Nat) : Option (List Byte) :=
  if s.bufLen < a + n then none else some (s.input.readBytes a n)

/-- `MemRead(a, n)` as an unsigned big-endian number (R51, R52, R54); `none` is `OutOfBounds`. -/
def memRead (s : State) (a n : Nat) : Option Nat := (readBytes s a n).map beNat

/-- `MemReadW(a, n)`: the same read, bounded by the record's window (R53). -/
def memReadW (s : State) (a n : Nat) : Option Nat :=
  if s.winEnd < a + n then none else memRead s a n

/-! ### Emission -/

/-- The cells one sample makes: one, or two adjacent ones when `DUP` (R147). -/
def cellsOf (dup : Bool) (v : Sample) : List Sample := if dup then [v, v] else [v]

/-- `Emit(v)`: `v` at cell `OUTP` of `OUT`, `OUTP` one more, twice when `DUP` (R58, R147). -/
def emit (v : Sample) (s : State) : State := { s with out := s.out ++ cellsOf s.dup v }

/-! ### Faults -/

/-- `raise C`: the causes' one entry (R220, R221). -/
def raise (c : FaultCause) (s : State) : State :=
  { s with fault := some ⟨c, s.recIndex, s.pc⟩, runState := .fault }

/-- What a faulting audio record may leave of its output: a free number of the cells it had emitted, with free contents
(R222, U3; log 7). -/
def freeTail (ctr emitted : Nat) : List Sample :=
  (List.range (Config.freeCount ctr % (emitted + 1))).map (Config.freeCell ctr)

/-- What R222 leaves unspecified after a fault of an audio record takes free values: `x[PS]`, `x[SI]` (in 0..88) and the
cells from the record's first on. The cells of completed records stay (log 7). -/
def unsettle (s : State) : State :=
  { s with
    ps := Config.freePs s.freeCtr
    si := BitVec.ofNat 8 (Config.freeSi s.freeCtr).val
    out := s.out.take s.recStart ++ freeTail s.freeCtr (s.out.length - s.recStart)
    freeCtr := s.freeCtr + 1 }

/-- A fault raised while the record is an audio record (R222). -/
def raiseAudio (c : FaultCause) (s : State) : State := raise c (unsettle s)

/-! ### A record's execution -/

/-- `RecFetch` writes the three header registers of the record at `pc` (R120); what the fetch before it left is no longer
valid (R29); the record begins with `OUTP` as it is (R192). -/
def latchRecord (h : RecHeader) (s : State) : State :=
  { s with
    recType := h.typ
    recFormat := h.fmt
    recSize := h.size
    recValid := true
    kindValid := false
    samplesValid := false
    recStart := s.out.length }

/-- A record fetch that finds fewer than 8 bytes: it writes no register (R120, log 17), and what the fetch before it left is
no longer valid (R29). -/
def dropRecord (s : State) : State := { s with recValid := false, kindValid := false, samplesValid := false }

/-- `ExecRecord` up to the window test: the header registers, `REC_KIND`, `WIN_END` (R191). -/
def enterRecord (k : RecKind) (z : Word32) (s : State) : State :=
  { latchRecord (kindHeader s.cfg k z) s with
    recKind := k
    winEnd := s.pc + recHdrSize + z.toNat
    kindValid := true }

/-- A header whose type or format is unmapped: the fault is raised with the header registers written and `REC_SIZE` not
used (R121, R122, R212). A header of the audio type is an audio record (R222; log 8). -/
def rejectRecord (h : RecHeader) (r : Reject) (s : State) : State :=
  if h.typ = s.cfg.codeAudio then raiseAudio (rejectCause r) (latchRecord h s)
  else raise (rejectCause r) (latchRecord h s)

/-- `AudioSubHeader(pc)`: `REC_SAMPLES` (R126); `none` is `OutOfBounds`. -/
def audioSubHeader (s : State) : Option State :=
  (memReadW s (s.pc + recHdrSize) audioSubHdrSize).map fun v =>
    { s with recSamples := BitVec.ofNat 32 v, samplesValid := true }

/-- `Decode`'s first line: `REM <- n; INP <- a; PHASE <- 0` with `n = REC_SAMPLES`, `a = pc + 12` (R143, R195). -/
def setupDecode (s : State) : State :=
  { s with
    rem := s.recSamples.toNat
    inp := s.pc + recHdrSize + audioSubHdrSize
    phase := .high
    seq := .decode }

/-- Continue mode: `W_PS <- x[PS]; W_SI <- x[SI]` (R143), what the record before committed (R168 (d)). -/
def continueStep (s : State) : State := { s with wPs := s.ps, wSi := s.si }

/-- The Reset step with its two seed bytes read: `StepIndexRange`, or the seed is loaded and emitted (R144, R171). -/
def seedStep (byte0 byte1 : Byte) (s : State) : State :=
  if siMax < (seedIndex byte1).toNat then raiseAudio .stepIndexRange { s with inp := s.inp + 2 }
  else
    emit (seedSample byte0 byte1)
      { s with
        inp := s.inp + 2
        wPs := seedSample byte0 byte1
        wSi := seedIndex byte1
        rem := s.rem - 1 }

/-- The Reset step (R144): `BadSampleCount`, `OutOfBounds`, `StepIndexRange` in that order of test. It reads neither `x[PS]`
nor `x[SI]` (R168 (a)). -/
def resetStep (s : State) : State :=
  if s.rem = 0 then raiseAudio .badSampleCount s
  else
    match memReadW s s.inp 1, memReadW s (s.inp + 1) 1 with
    | some b0, some b1 => seedStep (BitVec.ofNat 8 b0) (BitVec.ofNat 8 b1) s
    | _, _ => raiseAudio .outOfBounds s

/-- The start of a decode in a mode (R149, first two lines). -/
def startDecode : AdpcmMode → State → State
  | .reset, s => resetStep (setupDecode s)
  | .continue, s => continueStep (setupDecode s)

/-- `Commit` (R148): the one state that persists from record to record (R168 (d)). -/
def commit (s : State) : State := { s with ps := s.wPs, si := s.wSi }

/-- `Complete` (R192). -/
def complete (s : State) : State :=
  if isAudio s.recKind then
    { s with
      nAudio := s.nAudio + 1
      audioBytes := s.audioBytes + s.recSize.toNat
      recOut := s.recOut ++ [(s.recStart, s.out.length - s.recStart)]
      recIndex := s.recIndex + 1
      pc := s.winEnd
      seq := .fetch }
  else
    { s with
      nVideo := s.nVideo + 1
      recIndex := s.recIndex + 1
      pc := s.winEnd
      seq := .fetch }

/-- The end of an audio record whose samples are all produced: Commit, then Complete (R149, R191). -/
def finishAudio (s : State) : State := complete (commit s)

/-- The window test of a record just entered: does its declared payload lie inside the buffer (R193)? -/
def windowFits (s : State) : Bool := decide (s.winEnd ≤ s.bufLen)

/-- A video record: skipped by its declared size, its payload not read (R197, R198, R199). -/
def videoRecord (k : RecKind) (z : Word32) (s : State) : Host.Outcome State Fault Refusal :=
  if recordDue s then
    if windowFits (enterRecord k z s) then .next (complete (enterRecord k z s))
    else .next (raise .outOfBounds (enterRecord k z s))
  else .refused .recordOutOfSequence

/-- An audio record up to its first code: window test, `AdpcmMode`, sub-header, setup and, in Reset mode, the Reset step
(R191, R195, R196). Its codes and its end are the steps that follow (R203). -/
def audioRecord (k : RecKind) (z : Word32) (s : State) : Host.Outcome State Fault Refusal :=
  if recordDue s then
    if windowFits (enterRecord k z s) then
      match adpcmMode k with
      | .error c => .next (raise c (enterRecord k z s))
      | .ok m =>
        match audioSubHeader (enterRecord k z s) with
        | none => .next (raiseAudio .outOfBounds (enterRecord k z s))
        | some t => .next (startDecode m t)
    else .next (raiseAudio .outOfBounds (enterRecord k z s))
  else .refused .recordOutOfSequence

/-- `CodeStep(c)` (R146): the step size is read with the old index, the sample is updated, then the index, then the new
sample is emitted. -/
def codeStep (c : Code) (s : State) : Host.Outcome State Fault Refusal :=
  if codeDue s then
    match s.cfg.stepTable[s.wSi.toNat]? with
    | none => .fault .noStepEntry
    | some step =>
      .next (emit (nextSample s.wPs (difference c step.toNat))
        { s with
          wPs := nextSample s.wPs (difference c step.toNat)
          wSi := nextIndex s.wSi (indexDelta c) })
  else .refused .codeOutOfSequence

/-- `NextCode`'s move past the nibble it has read: "a new input byte is only advanced after its low nibble has been
consumed" (R145). -/
def advanceNibble (s : State) : State :=
  match s.phase with
  | .high => { s with phase := .low }
  | .low => { s with phase := .high, inp := s.inp + 1 }

/-- `REM <- REM − 1` after a code (R149). -/
def countSample (s : State) : State := { s with rem := s.rem - 1 }

end Sys2Proof.Machine
end

