-- ==== Sys2Proof/Machine/Codes.lean ====
section
/-! DEFINITION. The sixteen code micro-operations (42_adpcm_decoder.md R152 to R167), each `CodeStep(c)` of R146 for one value of
the code. -/

namespace Sys2Proof.Machine

/-- `C0` (R152). -/
def execC0 (s : State) : Host.Outcome State Fault Refusal := codeStep 0x0 s

/-- `C1` (R153). -/
def execC1 (s : State) : Host.Outcome State Fault Refusal := codeStep 0x1 s

/-- `C2` (R154). -/
def execC2 (s : State) : Host.Outcome State Fault Refusal := codeStep 0x2 s

/-- `C3` (R155). -/
def execC3 (s : State) : Host.Outcome State Fault Refusal := codeStep 0x3 s

/-- `C4` (R156). -/
def execC4 (s : State) : Host.Outcome State Fault Refusal := codeStep 0x4 s

/-- `C5` (R157). -/
def execC5 (s : State) : Host.Outcome State Fault Refusal := codeStep 0x5 s

/-- `C6` (R158). -/
def execC6 (s : State) : Host.Outcome State Fault Refusal := codeStep 0x6 s

/-- `C7` (R159). -/
def execC7 (s : State) : Host.Outcome State Fault Refusal := codeStep 0x7 s

/-- `C8` (R160). -/
def execC8 (s : State) : Host.Outcome State Fault Refusal := codeStep 0x8 s

/-- `C9` (R161). -/
def execC9 (s : State) : Host.Outcome State Fault Refusal := codeStep 0x9 s

/-- `CA` (R162). -/
def execCA (s : State) : Host.Outcome State Fault Refusal := codeStep 0xA s

/-- `CB` (R163). -/
def execCB (s : State) : Host.Outcome State Fault Refusal := codeStep 0xB s

/-- `CC` (R164). -/
def execCC (s : State) : Host.Outcome State Fault Refusal := codeStep 0xC s

/-- `CD` (R165). -/
def execCD (s : State) : Host.Outcome State Fault Refusal := codeStep 0xD s

/-- `CE` (R166). -/
def execCE (s : State) : Host.Outcome State Fault Refusal := codeStep 0xE s

/-- `CF` (R167). -/
def execCF (s : State) : Host.Outcome State Fault Refusal := codeStep 0xF s

end Sys2Proof.Machine
end

