-- ==== Sys2Proof/Machine/Header.lean ====
section
/-! DEFINITION. The container-header operation HDR (40_container_header.md). -/

namespace Sys2Proof.Machine

/-- The 19 header registers take the fields read (R110). -/
def latchHeader (h : Header) (s : State) : State := { s with hdr := h, hdrValid := true }

/-- `HDR` (R110): `OutOfBounds` for a buffer shorter than 0x3C before the tag is compared, and nothing latched (R111, R113);
else the fields are latched, and a tag that differs from `SIGNATURE` raises `MalformedHeader` (R112). -/
def execHdr (h : Header) (s : State) : Host.Outcome State Fault Refusal :=
  if headerDue s then
    if s.bufLen < hdrSize then .next (raise .outOfBounds s)
    else if h.tag = signature then .next { latchHeader h s with pc := hdrSize, runState := .walk }
    else .next (raise .malformedHeader (latchHeader h s))
  else .refused .headerOutOfSequence

end Sys2Proof.Machine
end

