-- ==== Sys2Proof/Machine/Records.lean ====
section
/-! DEFINITION. The five record operations (43_container_walker.md R195 to R199). -/

namespace Sys2Proof.Machine

/-- `AKEY`: an audio record in Reset mode (R195). -/
def execAkey (z : Word32) (s : State) : Host.Outcome State Fault Refusal := audioRecord .audioKeyframe z s

/-- `APRED`: an audio record in Continue mode (R196). -/
def execApred (z : Word32) (s : State) : Host.Outcome State Fault Refusal := audioRecord .audioPredict z s

/-- `VKEY`: a video keyframe record, skipped (R197). -/
def execVkey (z : Word32) (s : State) : Host.Outcome State Fault Refusal := videoRecord .videoKeyframe z s

/-- `VPRED`: a video predict record, skipped (R198). -/
def execVpred (z : Word32) (s : State) : Host.Outcome State Fault Refusal := videoRecord .videoPredict z s

/-- `VHOLD`: a video hold record, skipped (R199). -/
def execVhold (z : Word32) (s : State) : Host.Outcome State Fault Refusal := videoRecord .videoHold z s

end Sys2Proof.Machine
end

