-- ==== Sys2Proof/Machine/Dispatch.lean ====
section
/-! DEFINITION. The dispatch: one arm per operation of spec/opcode_table.json (30_encoding.md R92). -/

namespace Sys2Proof.Machine

def exec (i : Instr) (s : State) : Host.Outcome State Fault Refusal :=
  match i with
  | .hdr h => Sys2Proof.Machine.execHdr h s
  | .akey size => Sys2Proof.Machine.execAkey size s
  | .apred size => Sys2Proof.Machine.execApred size s
  | .vkey size => Sys2Proof.Machine.execVkey size s
  | .vpred size => Sys2Proof.Machine.execVpred size s
  | .vhold size => Sys2Proof.Machine.execVhold size s
  | .c0 => Sys2Proof.Machine.execC0 s
  | .c1 => Sys2Proof.Machine.execC1 s
  | .c2 => Sys2Proof.Machine.execC2 s
  | .c3 => Sys2Proof.Machine.execC3 s
  | .c4 => Sys2Proof.Machine.execC4 s
  | .c5 => Sys2Proof.Machine.execC5 s
  | .c6 => Sys2Proof.Machine.execC6 s
  | .c7 => Sys2Proof.Machine.execC7 s
  | .c8 => Sys2Proof.Machine.execC8 s
  | .c9 => Sys2Proof.Machine.execC9 s
  | .cA => Sys2Proof.Machine.execCA s
  | .cB => Sys2Proof.Machine.execCB s
  | .cC => Sys2Proof.Machine.execCC s
  | .cD => Sys2Proof.Machine.execCD s
  | .cE => Sys2Proof.Machine.execCE s
  | .cF => Sys2Proof.Machine.execCF s

end Sys2Proof.Machine
end

