-- ==== Sys2Proof/Machine/Fetch.lean ====
section
/-! DEFINITION. The Container Walker's sequencing (43_container_walker.md R190 to R203): what the block does between
operations, and which operation it runs next. -/

namespace Sys2Proof.Machine

/-- What the walker finds: an operation to run on a state, or a state it reaches with no operation. -/
inductive Fetched where
  | run (i : Instr) (s : State)
  | settled (s : State)
deriving DecidableEq, Repr

/-- In `IDLE`, started: the 60 bytes at offset 0; a buffer that does not hold them is `OutOfBounds` (R110, R111). -/
def fetchHeader (s : State) : Fetched :=
  match readBytes s 0 hdrSize with
  | none => .settled (raise .outOfBounds s)
  | some bs =>
    match decode s.cfg .ch bs with
    | .ok i => .run i s
    | .error r => .settled (raise (rejectCause r) s)

/-- In `WALK`, between records, `pc < BUF_LEN`: the 8 header bytes at `pc`, tested as one read (R120, log 17), and their
type and format (R121 to R123). -/
def fetchRecord (s : State) : Fetched :=
  match readBytes s s.pc recHdrSize with
  | none => .settled (raise .outOfBounds (dropRecord s))
  | some bs =>
    match decode s.cfg .rh bs with
    | .ok i => .run i s
    | .error r => .settled (rejectRecord (splitRecHeader bs) r s)

/-- In an audio record with samples to produce: `NextCode` (R145). -/
def fetchCode (s : State) : Fetched :=
  match memReadW s s.inp 1 with
  | none => .settled (raiseAudio .outOfBounds s)
  | some v =>
    match decode s.cfg (.nb s.phase) [BitVec.ofNat 8 v] with
    | .ok i => .run i (advanceNibble s)
    | .error r => .settled (raiseAudio (rejectCause r) s)

/-- The walker's next move (R190, R191, R149, R200). Nothing runs before the start command (R231, log 2), and `DONE` and
`FAULT` are absorbing (R31). -/
def fetch (s : State) : Fetched :=
  match s.runState, s.seq with
  | .idle, _ => if s.started then fetchHeader s else .settled s
  | .walk, .fetch => if s.pc < s.bufLen then fetchRecord s else .settled { s with runState := .done }
  | .walk, .decode => if s.rem = 0 then .settled (finishAudio s) else fetchCode s
  | .done, _ => .settled s
  | .fault, _ => .settled s

/-- What follows an operation in the same step: a code counts its sample (R149). -/
def retire (i : Instr) (s : State) : State := if isCode i then countSample s else s

/-! ### Placing one instruction where the walker fetches next (log 18) -/

/-- A container header at offset 0 of a block that has been started. -/
def placeHeader (bs : List Byte) (s : State) : State :=
  { s with
    runState := .idle
    seq := .fetch
    started := true
    pc := 0
    bufLen := max s.bufLen hdrSize
    input := s.input.writeBytes 0 bs }

/-- A record header at the cursor, the six bytes of a sub-header and a seed after it 0, the buffer as long as the
record. -/
def placeRecord (bs : List Byte) (s : State) : State :=
  { s with
    runState := .walk
    seq := .fetch
    started := true
    pc := max s.pc hdrSize
    bufLen := max s.bufLen (max s.pc hdrSize + recHdrSize + (splitRecHeader bs).size.toNat)
    input := s.input.writeBytes (max s.pc hdrSize) (bs ++ [0, 0, 0, 0, 0, 0]) }

/-- A code in the first stream byte of an `APRED` record of one sample at the cursor, that record being decoded. -/
def placeCode (bs : List Byte) (s : State) : State :=
  { s with
    runState := .walk
    seq := .decode
    started := true
    pc := max s.pc hdrSize
    recType := s.cfg.codeAudio
    recFormat := s.cfg.fmtAudioPredict
    recSize := 5
    recValid := true
    recKind := .audioPredict
    winEnd := max s.pc hdrSize + 13
    kindValid := true
    recSamples := 1
    samplesValid := true
    recStart := s.out.length
    rem := 1
    inp := max s.pc hdrSize + 12
    phase := .high
    bufLen := max s.bufLen (max s.pc hdrSize + 13)
    input := s.input.writeBytes (max s.pc hdrSize + 12) bs }

/-- The state in which the next step runs the instruction of an opcode-table word. -/
def placeWord (s : State) (nbits w : Nat) : State :=
  match tableBytes nbits w with
  | some (.ch, bs) => placeHeader bs s
  | some (.rh, bs) => placeRecord bs s
  | some (.nb _, bs) => placeCode bs s
  | none => s

end Sys2Proof.Machine
end

