-- ==== Sys2Proof/Machine/Step.lean ====
section
/-! DEFINITION. One step: the walker's next move, and the operation it runs, if any (43_container_walker.md R190, R203). -/

namespace Sys2Proof.Machine

/-- One step of the block. -/
def step (s : State) : Host.Outcome State Fault Refusal :=
  match fetch s with
  | .settled t => .next t
  | .run i t =>
    match exec i t with
    | .next u => .next (retire i u)
    | .fault f => .fault f
    | .refused r => .refused r

/-- `s` with the instruction of an opcode-table word where the next step fetches (log 18). -/
def State.withFetchWord (s : State) (nbits w : Nat) : State := placeWord s nbits w

end Sys2Proof.Machine
end

