-- ==== Sys2Proof/Machine/HostPort.lean ====
section
/-! DEFINITION. What the host does to the block and gets back (60_exceptions.md R231, 20_memory.md R64, 70_reset_and_hazards.md
R240 to R246). None of these is an operation of the block; `step` calls none of them. -/

namespace Sys2Proof.Machine

/-- Reset: every piece of state at its reset value, the run discarded; the parameters of the block stay (R240, R42). The model's
own counter `freeCtr` goes back to 0 too, so that two faulted runs separated by a reset take the same free values, which the
spec leaves open (R222, U3): DESIGN CHOICE, log 7. -/
def hostReset (s : State) : State := { State.reset with cfg := s.cfg }

/-- Start: the host gives the whole input, `DUP` and, if it wants, the initial `x[PS]`, `x[SI]` (R231, R245). A start in any
state but `IDLE`, or a second one, is refused (U8, R240), and so is an `x[SI]` above 88 (R7). -/
def hostStart (bytes : List Byte) (dup : Bool) (given : Option (Sample × BitVec 8)) (s : State) :
    Host.Outcome State Fault Refusal :=
  if s.runState = .idle ∧ s.started = false then
    match given with
    | none => .next { s with started := true, input := Memory.ofBytes 0 bytes, bufLen := bytes.length, dup := dup }
    | some (p, i) =>
      if i.toNat ≤ siMax then
        .next { s with started := true, input := Memory.ofBytes 0 bytes, bufLen := bytes.length, dup := dup,
                       ps := p, si := i }
      else .refused .initNotAdmitted
  else .refused .startNotIdle

/-- `RUN_STATE` for the host: "During a run the host reads nothing" (R64), so the read is refused while a run is in progress.
Before a start it answers `IDLE` (R44): DESIGN CHOICE, log 23; after the run it answers `DONE` or `FAULT` (R222, R231). -/
def hostRunState (s : State) : Except Refusal RunState :=
  if runUnderway s then .error .runNotEnded else .ok s.runState

/-- The header registers by name (R27). -/
inductive HeaderReg where
  | tag | fileSize | width | height | hSampling | vSampling | yShift | videoQShift | totalFrames | usecPerFrame
  | maxFrameSize | maxSpPackets | audioFormat | channels | sampleBits | audioQStep | totalAudioRecords
  | samplesPerSec | maxAudioRecordSize
deriving DecidableEq, Repr

/-- The value of a header register, unsigned (R27). -/
def headerValue (h : Header) : HeaderReg → Nat
  | .tag => h.tag.toNat
  | .fileSize => h.fileSize.toNat
  | .width => h.width.toNat
  | .height => h.height.toNat
  | .hSampling => h.hSampling.toNat
  | .vSampling => h.vSampling.toNat
  | .yShift => h.yShift.toNat
  | .videoQShift => h.videoQShift.toNat
  | .totalFrames => h.totalFrames.toNat
  | .usecPerFrame => h.usecPerFrame.toNat
  | .maxFrameSize => h.maxFrameSize.toNat
  | .maxSpPackets => h.maxSpPackets.toNat
  | .audioFormat => h.audioFormat.toNat
  | .channels => h.channels.toNat
  | .sampleBits => h.sampleBits.toNat
  | .audioQStep => h.audioQStep.toNat
  | .totalAudioRecords => h.totalAudioRecords.toNat
  | .samplesPerSec => h.samplesPerSec.toNat
  | .maxAudioRecordSize => h.maxAudioRecordSize.toNat

/-- The number of a record kind as the host reads it: the place of its name in R29's list (log 19). -/
def kindCode : RecKind → Nat
  | .audioKeyframe => 0
  | .audioPredict => 1
  | .videoKeyframe => 2
  | .videoPredict => 3
  | .videoHold => 4

/-- The registers the host reads after a run (R64, R229, R231). -/
inductive HostReg where
  | header (r : HeaderReg)
  | ps | si
  | recType | recFormat | recSize | recKind | winEnd | recSamples
  | nAudio | nVideo | audioBytes | recIndex
  | outp
  | faultCause | faultRec | faultOff
deriving DecidableEq, Repr

/-- The read of a header or record register that no operation has written: "Reading a header or record register before it is
written is refused by the model" (D1); R44: "reading one before the container-header operation completes is refused by the
model"; U4: `refuse`. -/
def unwritten : Except Refusal (Option Int) := .error .noValue

/-- A header register: its value once latched (R27, R113), before that refused (R44). -/
def headerReg (s : State) (r : HeaderReg) : Except Refusal (Option Int) :=
  if s.hdrValid then .ok (some (headerValue s.hdr r)) else unwritten

/-- The free value of a record register (by its place in R29's list) that an earlier record wrote and that is no longer valid:
any value of the register's type (log 24). -/
def staleValue (s : State) (place range : Nat) : Nat := Config.staleReg place s.recIndex % range

/-- A record register: its value while it is valid; after the next fetch (R29) a free value; the refusal of D1 and U4 when no
record has written it. -/
def recordReg (valid written : Bool) (value stale : Nat) : Except Refusal (Option Int) :=
  if valid then .ok (some (value : Int))
  else if written then .ok (some (stale : Int))
  else unwritten

/-- A record before the one in execution was fetched whole: it wrote `REC_TYPE` to `WIN_END` (R191, R192). -/
def anyRecord (s : State) : Bool := decide (0 < s.recIndex)

/-- An audio record before the one in execution was completed: it wrote `REC_SAMPLES` (R126, R192). -/
def anyAudio (s : State) : Bool := decide (0 < s.nAudio)

/-- A fault register; "Before a fault they hold no value" (R32, R200): the read then answers that there is none. -/
def faultReg (s : State) (f : FaultInfo → Nat) : Except Refusal (Option Int) :=
  .ok (s.fault.map fun i => (f i : Int))

/-- What the host reads from a register once the run has ended (R64, R231): a value, or that the register holds none. -/
def regValue (s : State) : HostReg → Except Refusal (Option Int)
  | .header r => headerReg s r
  | .ps => .ok (some s.ps.toInt)
  | .si => .ok (some (s.si.toNat : Int))
  | .recType => recordReg s.recValid (anyRecord s) s.recType.toNat (staleValue s 0 (2 ^ 16))
  | .recFormat => recordReg s.recValid (anyRecord s) s.recFormat.toNat (staleValue s 1 (2 ^ 16))
  | .recSize => recordReg s.recValid (anyRecord s) s.recSize.toNat (staleValue s 2 (2 ^ 32))
  | .recKind => recordReg s.kindValid (anyRecord s) (kindCode s.recKind) (staleValue s 3 5)
  | .winEnd => recordReg s.kindValid (anyRecord s) s.winEnd (Config.staleReg 4 s.recIndex)
  | .recSamples => recordReg s.samplesValid (anyAudio s) s.recSamples.toNat (staleValue s 5 (2 ^ 32))
  | .nAudio => .ok (some (s.nAudio : Int))
  | .nVideo => .ok (some (s.nVideo : Int))
  | .audioBytes => .ok (some (s.audioBytes : Int))
  | .recIndex => .ok (some (s.recIndex : Int))
  | .outp => .ok (some (s.outp : Int))
  | .faultCause => faultReg s fun i => causeCode i.cause
  | .faultRec => faultReg s fun i => i.recNo
  | .faultOff => faultReg s fun i => i.off

/-- "During a run the host reads nothing" (R64). -/
def hostReadReg (r : HostReg) (s : State) : Except Refusal (Option Int) :=
  if runEnded s then regValue s r else .error .runNotEnded

/-- The output samples, `OUT[0 .. OUTP)`, as signed numbers (R64). -/
def hostReadOut (s : State) : Except Refusal (List Int) :=
  if runEnded s then .ok (s.out.map BitVec.toInt) else .error .runNotEnded

/-- `REC_OUT` (R64). -/
def hostReadRecOut (s : State) : Except Refusal (List (Nat × Nat)) :=
  if runEnded s then .ok s.recOut else .error .runNotEnded

end Sys2Proof.Machine
end

