-- ==== Sys2Proof/Safety.lean ====
section
/-! DEFINITION. The terms claims are stated in: runs of several steps, the invariant of the block, where a record stands in
the input, and the quantizer as the source words it, on plain integers (42_adpcm_decoder.md R146). Nothing in Machine/
uses this file. -/

namespace Sys2Proof.Machine

/-- `n` steps of the block. -/
def runFor (n : Nat) (s : State) : Host.Outcome State Fault Refusal := Host.Core.run core n s

/-! ### The invariant -/

/-- `E`, the end of the last entry of `REC_OUT`, 0 if none (R222). -/
def recEnd (l : List (Nat × Nat)) : Nat :=
  match l.getLast? with
  | none => 0
  | some (a, n) => a + n

/-- The slices follow each other with no gap, the first one at `e` (R33). -/
def tiles : Nat → List (Nat × Nat) → Bool
  | _, [] => true
  | e, (a, n) :: l => a == e && tiles (a + n) l

/-- Cells per sample (R147). -/
def cellCount (dup : Bool) : Nat := if dup then 2 else 1

/-- The parameters meet R7; `IN` is canonical and inside `BUF_LEN`; the header registers fit `HDR_LAYOUT` (R27, R35). -/
abbrev ParamsInv (s : State) : Prop :=
  s.cfg.legal = true ∧ s.input.wf = true ∧ (∀ c ∈ s.input, c.1 < s.bufLen)
    ∧ fieldsFit s.cfg.layout s.hdr.fields = true

/-- The step index "never leaves [0, 88]" (R21, R168). -/
abbrev IndexInv (s : State) : Prop := s.si.toNat ≤ siMax ∧ s.wSi.toNat ≤ siMax

/-- Where the cursor stands in each run state (R24, R25, R110, R200). -/
abbrev CursorInv (s : State) : Prop :=
  s.pc ≤ s.bufLen
    ∧ (s.runState = .idle → s.pc = 0 ∧ s.seq = .fetch ∧ s.recIndex = 0 ∧ s.out = [] ∧ s.recOut = []
        ∧ s.hdrValid = false)
    ∧ (s.runState = .walk → hdrSize ≤ s.pc ∧ s.hdrValid = true ∧ s.hdr.tag = signature)
    ∧ (s.runState = .done → s.pc = s.bufLen ∧ s.hdrValid = true ∧ s.hdr.tag = signature)

/-- The counters, the slices of `OUT` and the fault registers agree (R30, R32, R33, R222). -/
abbrev LedgerInv (s : State) : Prop :=
  s.recIndex = s.nAudio + s.nVideo ∧ s.recOut.length = s.nAudio ∧ tiles 0 s.recOut = true
    ∧ recEnd s.recOut ≤ s.out.length ∧ (s.fault.isSome = true ↔ s.runState = .fault)
    ∧ (s.runState = .done → s.out.length = recEnd s.recOut)

/-- Between records the output ends with the last record's slice; inside an audio record the window, the read pointer, the
samples still to produce and the cells produced agree (R40, R126, R193, R149). -/
abbrev RecordInv (s : State) : Prop :=
  (s.runState = .walk ∧ s.seq = .fetch → s.out.length = recEnd s.recOut)
    ∧ (s.runState = .walk ∧ s.seq = .decode →
        isAudio s.recKind = true ∧ s.winEnd = s.pc + recHdrSize + s.recSize.toNat ∧ s.winEnd ≤ s.bufLen
          ∧ s.pc + recHdrSize + audioSubHdrSize ≤ s.inp ∧ s.inp ≤ s.winEnd
          ∧ (s.phase = .low → s.inp < s.winEnd) ∧ s.rem ≤ s.recSamples.toNat
          ∧ s.recStart = recEnd s.recOut
          ∧ s.out.length = s.recStart + (s.recSamples.toNat - s.rem) * cellCount s.dup)

/-- The invariant of the block. -/
abbrev BlockInv (s : State) : Prop :=
  ParamsInv s ∧ IndexInv s ∧ CursorInv s ∧ LedgerInv s ∧ RecordInv s

/-! ### Records in the input -/

/-- The 8 bytes at `p` are the header of a record of kind `k` and size `z` (R81, R82). -/
abbrev recordAt (s : State) (p : Nat) (k : RecKind) (z : Word32) : Prop :=
  s.input.readBytes p recHdrSize = encodeRecHeader (kindHeader s.cfg k z)

/-- The sample count of an audio record at `p` (R84). -/
def samplesAt (s : State) (p : Nat) : Nat := beNat (s.input.readBytes (p + 8) 4)

/-- The first `n` codes of a stream that starts at `a`: "the k-th code of a record (k from 0) is in stream byte floor(k / 2)
counted from the first code byte, high nibble when k is even, low nibble when k is odd" (R87). -/
def codesFrom (m : Memory) (a n : Nat) : List Code :=
  (List.range n).map fun k => nibble (if k % 2 = 0 then .high else .low) (m.read (a + k / 2))

/-! ### The quantizer on integers -/

/-- "Compute magnitude m = step >> 3; add step >> 2 if bit 0 of c is set; add step >> 1 if bit 1 is set; add step if bit 2 is
set; negate m if bit 3 (sign bit) is set" (R146), with the shifts as divisions. -/
def refDiff (c : Code) (step : Nat) : Int :=
  let m : Int := ((step / 8 + (if c.toNat % 2 = 1 then step / 4 else 0)
    + (if c.toNat / 2 % 2 = 1 then step / 2 else 0) + (if c.toNat / 4 % 2 = 1 then step else 0) : Nat) : Int)
  if 8 ≤ c.toNat then -m else m

/-- `INDEX_DELTA`: −1 for the magnitudes 0 to 3, then 2, 4, 6, 8 (R141). -/
def refDelta (c : Code) : Int := if c.toNat % 8 < 4 then -1 else 2 * ((c.toNat % 8 : Nat) : Int) - 6

/-- One code on a sample value and a step index (R146). -/
def refStep (table : List Half) (q : Int × Nat) (c : Code) : Int × Nat :=
  (max (-32768) (min 32767 (q.1 + refDiff c (table.getD q.2 0).toNat)),
   (max 0 (min 88 ((q.2 : Int) + refDelta c))).toNat)

/-- The samples a list of codes produces from a state (R149). -/
def refSamples (table : List Half) : Int × Nat → List Code → List Int
  | _, [] => []
  | q, c :: cs => (refStep table q c).1 :: refSamples table (refStep table q c) cs

/-- The state a list of codes ends in (R149). -/
def refFinal (table : List Half) (q : Int × Nat) (cs : List Code) : Int × Nat := cs.foldl (refStep table) q

/-- Each sample once, or twice in adjacent cells when `dup` (R147). -/
def fanOut (dup : Bool) (vs : List Int) : List Int := vs.flatMap fun v => if dup then [v, v] else [v]

/-- The samples of a state's output as signed numbers. -/
def outInts (s : State) : List Int := s.out.map BitVec.toInt

/-- The ADPCM state as numbers. -/
def adpcm (s : State) : Int × Nat := (s.ps.toInt, s.si.toNat)

/-! ### What a code and a fault do -/

/-- The effect of a code whose difference is `m` and whose index step is `d`: the sample saturates, the index is clamped, the
new sample is emitted, nothing else changes (R146, R147). -/
def CodeEffect (s t : State) (m d : Int) : Prop :=
  t.wPs.toInt = max (-32768) (min 32767 (s.wPs.toInt + m))
    ∧ ((t.wSi.toNat : Int) = max 0 (min 88 ((s.wSi.toNat : Int) + d)))
    ∧ t.out = s.out ++ (if s.dup then [t.wPs, t.wPs] else [t.wPs])
    ∧ t = { s with wPs := t.wPs, wSi := t.wSi, out := t.out }

/-- `t` is the `FAULT` state that cause `c` makes of `s`, with nothing said of what R222 leaves unspecified: the fault
registers hold the cause, `REC_INDEX` and `pc` of `s`, the cursor, the counters, `REC_OUT` and the header registers are
those of `s` (R220, R221, R222). -/
def Faulted (s t : State) (c : FaultCause) : Prop :=
  t.runState = .fault ∧ t.fault = some ⟨c, s.recIndex, s.pc⟩ ∧ t.pc = s.pc
    ∧ t.nAudio = s.nAudio ∧ t.nVideo = s.nVideo ∧ t.audioBytes = s.audioBytes ∧ t.recIndex = s.recIndex
    ∧ t.recOut = s.recOut ∧ t.hdr = s.hdr ∧ t.hdrValid = s.hdrValid

/-- What no step and no operation changes: `IN`, byte by byte, `BUF_LEN`, `DUP` and the parameters (R42, R62). -/
def SameRun (s t : State) : Prop :=
  (∀ a, t.input.read a = s.input.read a) ∧ t.input = s.input ∧ t.bufLen = s.bufLen ∧ t.dup = s.dup
    ∧ t.cfg = s.cfg

end Sys2Proof.Machine
end

