-- ==== Sys2Proof/Certificates/Slice0/Obligations.lean ====
section
/-! DEFINITION. The statements for the provers, from the numbered rules of spec/. Each docstring names the rule it formalises;
where a statement rests on a choice of the model, it says so and names the log entry. -/

open Sys2Proof Sys2Proof.Machine

/-! ### Reset, start, read port -/

/-- R44, R241: the values after a reset. `x[PS]` and `x[SI]` are the open parameters (log 3). Of the registers R44 gives "no
value", `regValue`, the reading behind the host port's end-of-run gate, is D1's refusal for the header and record registers
(log 4) and no value for the fault registers (R32, log 5); the port itself, `hostReadReg`, reads nothing in `IDLE`
(HostReadsOnlyAfterTheRun). The tables have their contents: that `STEP_TABLE` is R142's default is general knowledge (log 11). -/
def Obligations.ResetLeavesTheSpecsValues : Prop :=
  State.reset.runState = .idle ∧ State.reset.pc = 0
    ∧ State.reset.ps = Config.initPs ∧ State.reset.si.toNat = Config.initSi.val
    ∧ State.reset.nAudio = 0 ∧ State.reset.nVideo = 0 ∧ State.reset.audioBytes = 0 ∧ State.reset.recIndex = 0
    ∧ State.reset.outp = 0 ∧ State.reset.out = [] ∧ State.reset.recOut = [] ∧ State.reset.fault = none
    ∧ (∀ r, regValue State.reset (.header r) = .error .noValue)
    ∧ (∀ r ∈ [HostReg.recType, .recFormat, .recSize, .recKind, .winEnd, .recSamples],
        regValue State.reset r = .error .noValue)
    ∧ (∀ r ∈ [HostReg.faultCause, .faultRec, .faultOff], regValue State.reset r = .ok none)
    ∧ State.reset.cfg.stepTable = defaultStepTable
    ∧ (∀ c : Code, indexDelta c = refDelta c)

/-- R240: a reset puts every piece of state at its reset value from any state, the ended ones among them. R240's are the values
R44 gives. The rest of the equality with `State.reset` is the model's choice: the same open `x[PS]`, `x[SI]` at every reset
(log 3); the contents of the registers R44 gives no value (log 4); an empty `IN`, `BUF_LEN` 0 and `DUP` false (log 6); `freeCtr`
back to 0, so that two faulted runs separated by a reset take the same free values (log 7); the model's own fields `seq`,
`recStart` (log 1) and `started` (log 2); and that the parameters of the block stay (log 9). -/
def Obligations.ResetDiscardsTheRun : Prop :=
  ∀ s : State, hostReset s = { State.reset with cfg := s.cfg } ∧ (s.cfg = defaultConfig → hostReset s = State.reset)

/-- R231, R245, R35, U8: a start in `IDLE` gives the block its input, byte for byte, its length and `DUP`, and the initial
`x[PS]`, `x[SI]` where the host names them, and changes nothing else; what lies past the input reads as 0 (the model's choice,
log 6) and the memory is canonical. An initial `x[SI]` above 88, outside R7's range, is refused (log 3), and so is a start in
any other state, or a second one (log 2). -/
def Obligations.StartLoadsTheInput : Prop :=
  (∀ (s : State) (bytes : List Byte) (dup : Bool) (p : Sample) (i : BitVec 8),
    s.runState = .idle → s.started = false →
      ∃ t, hostStart bytes dup none s = .next t
        ∧ t = { s with started := true, input := t.input, bufLen := bytes.length, dup := dup }
        ∧ (∀ k, t.input.read k = bytes.getD k 0) ∧ t.input.wf = true
        ∧ (i.toNat ≤ 88 → hostStart bytes dup (some (p, i)) s = .next { t with ps := p, si := i })
        ∧ (88 < i.toNat → hostStart bytes dup (some (p, i)) s = .refused .initNotAdmitted))
  ∧ ∀ (s : State) (bytes : List Byte) (dup : Bool) (g : Option (Sample × BitVec 8)),
      s.runState ≠ .idle ∨ s.started = true → hostStart bytes dup g s = .refused .startNotIdle

/-- R64, R44, R222, R231, D1: "During a run the host reads nothing"; after `DONE` and after `FAULT` the host reads the output,
`REC_OUT` and every register as they are. The last part says what each register's read then gives: `x[PS]`, `x[SI]`, the
counters and `OUTP` their value (after a fault of an audio record `x[PS]`, `x[SI]` are free values, log 7); the 19 header
registers their values in R27's order once latched, else the refusal; the record registers their values while R29 has them
valid, the refusal where no record has written them, and between the two a free value of the register's range (the model's
choice, log 24; the numbers of the kinds are log 19's); the fault registers nothing before a fault (R32), and then the cause as
its code of R210, the record index and the offset. -/
def Obligations.HostReadsOnlyAfterTheRun : Prop :=
  (∀ (s : State) (r : HostReg), s.runState = .idle ∨ s.runState = .walk →
    hostReadReg r s = .error .runNotEnded ∧ hostReadOut s = .error .runNotEnded
      ∧ hostReadRecOut s = .error .runNotEnded)
  ∧ (∀ (s : State) (r : HostReg), s.runState = .done ∨ s.runState = .fault →
    hostReadReg r s = regValue s r ∧ hostReadOut s = .ok (outInts s) ∧ hostReadRecOut s = .ok s.recOut)
  ∧ [FaultCause.malformedHeader, .unknownType, .unknownFormat, .outOfBounds, .notAudio, .stepIndexRange,
      .badSampleCount].map causeCode = [1, 2, 3, 4, 5, 6, 7]
  ∧ ∀ s : State,
    (regValue s .ps = .ok (some s.ps.toInt) ∧ regValue s .si = .ok (some (s.si.toNat : Int))
      ∧ regValue s .nAudio = .ok (some (s.nAudio : Int)) ∧ regValue s .nVideo = .ok (some (s.nVideo : Int))
      ∧ regValue s .audioBytes = .ok (some (s.audioBytes : Int))
      ∧ regValue s .recIndex = .ok (some (s.recIndex : Int))
      ∧ regValue s .outp = .ok (some (s.out.length : Int)))
    ∧ (s.hdrValid = true →
      [HeaderReg.tag, .fileSize, .width, .height, .hSampling, .vSampling, .yShift, .videoQShift, .totalFrames,
          .usecPerFrame, .maxFrameSize, .maxSpPackets, .audioFormat, .channels, .sampleBits, .audioQStep,
          .totalAudioRecords, .samplesPerSec, .maxAudioRecordSize].map (fun r => regValue s (.header r))
        = (s.hdr.tag.toNat :: s.hdr.fields).map fun v => .ok (some (v : Int)))
    ∧ (s.hdrValid = false → ∀ r, regValue s (.header r) = .error .noValue)
    ∧ (s.recValid = true → regValue s .recType = .ok (some (s.recType.toNat : Int))
      ∧ regValue s .recFormat = .ok (some (s.recFormat.toNat : Int))
      ∧ regValue s .recSize = .ok (some (s.recSize.toNat : Int)))
    ∧ (s.kindValid = true → regValue s .recKind = .ok (some (kindCode s.recKind : Int))
      ∧ regValue s .winEnd = .ok (some (s.winEnd : Int)))
    ∧ (s.samplesValid = true → regValue s .recSamples = .ok (some (s.recSamples.toNat : Int)))
    ∧ (s.recIndex = 0 →
      (s.recValid = false → ∀ r ∈ [HostReg.recType, .recFormat, .recSize], regValue s r = .error .noValue)
      ∧ (s.kindValid = false → ∀ r ∈ [HostReg.recKind, .winEnd], regValue s r = .error .noValue))
    ∧ (s.nAudio = 0 → s.samplesValid = false → regValue s .recSamples = .error .noValue)
    ∧ (0 < s.recIndex →
      (∃ v < 2 ^ 16, regValue s .recType = .ok (some ((v : Nat) : Int)))
      ∧ (∃ v < 2 ^ 16, regValue s .recFormat = .ok (some ((v : Nat) : Int)))
      ∧ (∃ v < 2 ^ 32, regValue s .recSize = .ok (some ((v : Nat) : Int)))
      ∧ (∃ v < 5, regValue s .recKind = .ok (some ((v : Nat) : Int)))
      ∧ ∃ v : Nat, regValue s .winEnd = .ok (some (v : Int)))
    ∧ (0 < s.nAudio → ∃ v < 2 ^ 32, regValue s .recSamples = .ok (some ((v : Nat) : Int)))
    ∧ (s.fault = none → ∀ r ∈ [HostReg.faultCause, .faultRec, .faultOff], regValue s r = .ok none)
    ∧ ∀ i, s.fault = some i → regValue s .faultCause = .ok (some (causeCode i.cause : Int))
      ∧ regValue s .faultRec = .ok (some (i.recNo : Int)) ∧ regValue s .faultOff = .ok (some (i.off : Int))

/-! ### Encodings -/

/-- Words written out from R81, R82, R83 and R86 decode to the operations they stand for (the header's layout and the numeric
codes are R7's defaults, log 10 and 12). -/
def Obligations.SampleWordsDecode : Prop :=
  decodeTableWord 480 0x4856514D3220312E30000000000000000000004B014000F0020203040000000500008256000000060000000709010A0B0000000100005622000000FF
      = some (.hdr ⟨0x4856514D3220312E3000000000000000, 75, 320, 240, 2, 2, 3, 4, 5, 33366, 6, 7, 9, 1, 10, 11, 1,
          22050, 255⟩)
    ∧ decodeTableWord 64 0x0000000000000007 = some (.akey 7)
    ∧ decodeTableWord 64 0x0000000100000005 = some (.apred 5)
    ∧ decodeTableWord 64 0x0001000000000100 = some (.vkey 256)
    ∧ decodeTableWord 64 0x0001000100000004 = some (.vpred 4)
    ∧ decodeTableWord 64 0x0001000200000000 = some (.vhold 0)
    ∧ decodeTableWord 64 0x0000000200000000 = none
    ∧ decodeTableWord 64 0x0100000000000000 = none
    ∧ decodeTableWord 4 0x1 = some .c1 ∧ decodeTableWord 4 0x8 = some .c8 ∧ decodeTableWord 4 0xE = some .cE

/-- R80 to R87: under any admitted parameters, decoding the bytes of a well-formed instruction gives it back, with every
operand at every value its field admits. -/
def Obligations.DecodeOfEncode : Prop :=
  ∀ (cfg : Config) (i : Instr), cfg.legal = true → wellFormed cfg i = true →
    decode cfg (formatOf i) (encode cfg i) = .ok i

/-- R81, R82: the other direction for the record header: the 8 bytes a record operation was decoded from are its encoding, so
no two headers stand for one operation. -/
def Obligations.EncodeOfDecodedRecordHeader : Prop :=
  ∀ (cfg : Config) (bs : List Byte) (i : Instr), bs.length = 8 → decode cfg .rh bs = .ok i → encode cfg i = bs

/-- R121, R122, R123: which (type, format) pairs are which record kind, and which error each other pair is: an unmapped type
is `UnknownType` whatever the format, and `UnknownFormat` goes by the decoded type. -/
def Obligations.RecordKindByTypeThenFormat : Prop :=
  ∀ (cfg : Config) (t f : Half) (z : Word32),
    decode cfg .rh (encodeRecHeader ⟨t, f, z⟩) =
      (if t = cfg.codeAudio then
        (if f = cfg.fmtAudioKeyframe then .ok (.akey z)
         else if f = cfg.fmtAudioPredict then .ok (.apred z)
         else .error .unknownFormat)
      else if t = cfg.codeVideo then
        (if f = cfg.fmtVideoKeyframe then .ok (.vkey z)
         else if f = cfg.fmtVideoPredict then .ok (.vpred z)
         else if f = cfg.fmtVideoHold then .ok (.vhold z)
         else .error .unknownFormat)
      else .error .unknownType)

/-- R51, R52, R53: `MemRead` answers exactly when the bytes lie inside the buffer, and then the big-endian number; `MemReadW`
answers exactly when they also lie inside the record's window, and then the same number. -/
def Obligations.ReadsAreBigEndianAndBounded : Prop :=
  ∀ (s : State) (a n : Nat),
    memRead s a n =
        (if s.bufLen < a + n then none
         else some (∑ k ∈ Finset.range n, (s.input.read (a + k)).toNat * 256 ^ (n - 1 - k)))
      ∧ memReadW s a n = (if s.winEnd < a + n then none else memRead s a n)

/-! ### One step runs the decoded operation -/

/-- R190, R191, R149: when the bytes where the walker fetches decode to an instruction, the step is that instruction: HDR at
offset 0 in `IDLE` after the start, a record operation at `pc` between records, and inside an audio record the code at
`INP` and `PHASE`, with the move past its nibble before it and `REM <- REM - 1` after it. -/
def Obligations.StepRunsTheDecodedInstruction : Prop :=
  (∀ (s : State) (i : Instr), s.runState = .idle → s.started = true → 60 ≤ s.bufLen →
    decode s.cfg .ch (s.input.readBytes 0 60) = .ok i → step s = exec i s)
  ∧ (∀ (s : State) (i : Instr), s.runState = .walk → s.seq = .fetch → s.pc + 8 ≤ s.bufLen →
    decode s.cfg .rh (s.input.readBytes s.pc 8) = .ok i → step s = exec i s)
  ∧ ∀ (s : State) (i : Instr), s.runState = .walk → s.seq = .decode → 0 < s.rem → s.inp + 1 ≤ s.winEnd →
    s.inp + 1 ≤ s.bufLen → decode s.cfg (.nb s.phase) (s.input.readBytes s.inp 1) = .ok i →
      step s = (match exec i (advanceNibble s) with
        | .next t => .next { t with rem := t.rem - 1 }
        | .fault e => .fault e
        | .refused e => .refused e)

/-- R145: the code a step takes is the high nibble of `IN[INP]` at phase 0 and the low nibble at phase 1; `INP` moves on only
after the low nibble; a byte outside the window is `OutOfBounds`, which a state that meets the invariant reaches at phase 0
only. -/
def Obligations.NextCodeTakesHighNibbleFirst : Prop :=
  ∀ (s : State), s.runState = .walk → s.seq = .decode → 0 < s.rem →
    (s.inp + 1 ≤ s.winEnd → s.inp + 1 ≤ s.bufLen → s.phase = .high →
      fetch s = .run (codeInstr (BitVec.ofNat 4 ((s.input.read s.inp).toNat / 16))) { s with phase := .low })
    ∧ (s.inp + 1 ≤ s.winEnd → s.inp + 1 ≤ s.bufLen → s.phase = .low →
      fetch s = .run (codeInstr (BitVec.ofNat 4 ((s.input.read s.inp).toNat % 16)))
        { s with phase := .high, inp := s.inp + 1 })
    ∧ (s.winEnd < s.inp + 1 → ∃ t, step s = .next t ∧ Faulted s t .outOfBounds)
    ∧ (BlockInv s → s.phase = .low → s.inp + 1 ≤ s.winEnd)

/-! ### HDR -/

/-- R110, R112: HDR in `IDLE` at offset 0, with 60 bytes and the signature as its tag, latches the 19 fields, sets the cursor
to 0x3C and starts the walk; nothing else changes. -/
def Obligations.HdrStartsTheWalk : Prop :=
  ∀ (s : State) (h : Header), s.runState = .idle → s.pc = 0 → 60 ≤ s.bufLen →
    h.tag = 0x4856514D3220312E3000000000000000 →
      exec (.hdr h) s = .next { s with hdr := h, hdrValid := true, pc := 0x3C, runState := .walk }

/-- R110, R111, R112: the header step of a started run reads the tag and the 18 fields of `HDR_LAYOUT` big-endian at
their offsets. A buffer shorter than 0x3C is `OutOfBounds` whatever its bytes, nothing latched; with 0x3C bytes the
fields are latched, and a tag other than the signature is `MalformedHeader`; the fault registers hold index 0, offset 0. -/
def Obligations.HeaderStepLatchesOrFaults : Prop :=
  ∀ s : State, s.cfg.legal = true → s.runState = .idle → s.started = true → s.pc = 0 → s.recIndex = 0 →
    (s.bufLen < 60 → step s = .next { s with runState := .fault, fault := some ⟨.outOfBounds, 0, 0⟩ })
    ∧ (60 ≤ s.bufLen → ∃ h : Header,
        h.tag.toNat = beNat (s.input.readBytes 0 16)
        ∧ (∀ k < 18, h.fields[k]? =
            some (beNat (s.input.readBytes (16 + (s.cfg.layout.take k).sum) (s.cfg.layout.getD k 0))))
        ∧ step s =
          (if h.tag = 0x4856514D3220312E3000000000000000 then
            .next { s with hdr := h, hdrValid := true, pc := 60, runState := .walk }
          else
            .next { s with hdr := h, hdrValid := true, runState := .fault,
                           fault := some ⟨.malformedHeader, 0, 0⟩ }))

/-! ### The record operations -/

/-- R197, R198, R199, with R191 and R192: a video record whose payload lies inside the buffer is skipped: its header registers
are written (R191), `N_VIDEO` and `REC_INDEX` go up by one and the cursor moves past it (R192); `x[PS]`, `x[SI]`, `OUT`, the
audio counters and all the rest stay. That fetch, window test and Complete are one step, with `recStart` set, is the model's
choice (log 1), and so are the validity bits (log 4). -/
def Obligations.VideoRecordsAreSkipped : Prop :=
  ∀ (s : State) (z : Word32), s.runState = .walk → s.seq = .fetch → s.pc + 8 + z.toNat ≤ s.bufLen →
    exec (.vkey z) s = .next { s with
        recType := s.cfg.codeVideo, recFormat := s.cfg.fmtVideoKeyframe, recSize := z, recValid := true,
        recKind := .videoKeyframe, winEnd := s.pc + 8 + z.toNat, kindValid := true, samplesValid := false,
        recStart := s.out.length, nVideo := s.nVideo + 1, recIndex := s.recIndex + 1, pc := s.pc + 8 + z.toNat }
    ∧ exec (.vpred z) s = .next { s with
        recType := s.cfg.codeVideo, recFormat := s.cfg.fmtVideoPredict, recSize := z, recValid := true,
        recKind := .videoPredict, winEnd := s.pc + 8 + z.toNat, kindValid := true, samplesValid := false,
        recStart := s.out.length, nVideo := s.nVideo + 1, recIndex := s.recIndex + 1, pc := s.pc + 8 + z.toNat }
    ∧ exec (.vhold z) s = .next { s with
        recType := s.cfg.codeVideo, recFormat := s.cfg.fmtVideoHold, recSize := z, recValid := true,
        recKind := .videoHold, winEnd := s.pc + 8 + z.toNat, kindValid := true, samplesValid := false,
        recStart := s.out.length, nVideo := s.nVideo + 1, recIndex := s.recIndex + 1, pc := s.pc + 8 + z.toNat }

/-- R193: a record of any of the five kinds whose declared payload ends past the buffer is `OutOfBounds`: the cursor stays, no
counter moves, no output is added and none is lost; the sum is on naturals. A video record leaves `x[PS]`, `x[SI]` as
they are. -/
def Obligations.WindowOverrunFaults : Prop :=
  ∀ (s : State) (z : Word32) (i : Instr), s.runState = .walk → s.seq = .fetch → s.bufLen < s.pc + 8 + z.toNat →
    i ∈ [Instr.akey z, .apred z, .vkey z, .vpred z, .vhold z] →
      ∃ t, exec i s = .next t ∧ Faulted s t .outOfBounds ∧ t.out = s.out ∧ SameRun s t
        ∧ (i ∈ [Instr.vkey z, .vpred z, .vhold z] → t.ps = s.ps ∧ t.si = s.si)

/-- R191, R126, R143, R144, R170, R171 (the first part of R195): AKEY on a record that fits the buffer. Its tests in order: the sample
count must lie in the window, must not be 0, the two seed bytes must lie in the window, the seed index must be at most 88.
Where one fails, that fault is raised with nothing emitted. Where all hold, the next state has `REC_SAMPLES`, the seed sample
`(byte0 << 8) | (byte1 & 0x80)` and index `byte1 & 0x7F` in the working registers, the seed emitted once or twice, one
sample counted and the codes next; `x[PS]`, `x[SI]` are not read. That the operation's step is the fetch to the Reset step,
with `seq` and `recStart` set and the codes and Complete left to later steps, is the model's choice (log 1), and so are the
validity bits (log 4). -/
def Obligations.AkeyResetsFromItsSeed : Prop :=
  ∀ (s : State) (z : Word32), s.runState = .walk → s.seq = .fetch → s.pc + 8 + z.toNat ≤ s.bufLen →
    let n := beNat (s.input.readBytes (s.pc + 8) 4)
    let b0 := (s.input.read (s.pc + 12)).toNat
    let b1 := (s.input.read (s.pc + 13)).toNat
    let seed : Sample := BitVec.ofNat 16 (b0 * 256 + b1 / 128 * 128)
    if z.toNat < 4 then ∃ t, exec (.akey z) s = .next t ∧ Faulted s t .outOfBounds ∧ t.out = s.out
    else if n = 0 then ∃ t, exec (.akey z) s = .next t ∧ Faulted s t .badSampleCount ∧ t.out = s.out
    else if z.toNat < 6 then ∃ t, exec (.akey z) s = .next t ∧ Faulted s t .outOfBounds ∧ t.out = s.out
    else if 88 < b1 % 128 then ∃ t, exec (.akey z) s = .next t ∧ Faulted s t .stepIndexRange ∧ t.out = s.out
    else exec (.akey z) s = .next { s with
        recType := s.cfg.codeAudio, recFormat := s.cfg.fmtAudioKeyframe, recSize := z, recValid := true,
        recKind := .audioKeyframe, winEnd := s.pc + 8 + z.toNat, kindValid := true,
        recSamples := BitVec.ofNat 32 n, samplesValid := true, recStart := s.out.length,
        seq := .decode, rem := n - 1, inp := s.pc + 14, phase := .high,
        wPs := seed, wSi := BitVec.ofNat 8 (b1 % 128),
        out := s.out ++ (if s.dup then [seed, seed] else [seed]) }

/-- R191, R126, R143, R149 (the first part of R196): APRED on a record that fits the buffer: `OutOfBounds` when its size is below 4;
else the sample count is read, the working registers take `x[PS]` and `x[SI]`, and the codes start at `pc + 12`, high nibble
first; nothing is emitted yet and a count of 0 is legal. That the operation's step is the fetch to the setup, with `seq` and
`recStart` set and the codes and Complete left to later steps, is the model's choice (log 1), and so are the validity bits
(log 4). -/
def Obligations.ApredContinuesFromTheCarriedState : Prop :=
  ∀ (s : State) (z : Word32), s.runState = .walk → s.seq = .fetch → s.pc + 8 + z.toNat ≤ s.bufLen →
    let n := beNat (s.input.readBytes (s.pc + 8) 4)
    if z.toNat < 4 then ∃ t, exec (.apred z) s = .next t ∧ Faulted s t .outOfBounds ∧ t.out = s.out
    else exec (.apred z) s = .next { s with
        recType := s.cfg.codeAudio, recFormat := s.cfg.fmtAudioPredict, recSize := z, recValid := true,
        recKind := .audioPredict, winEnd := s.pc + 8 + z.toNat, kindValid := true,
        recSamples := BitVec.ofNat 32 n, samplesValid := true, recStart := s.out.length,
        seq := .decode, rem := n, inp := s.pc + 12, phase := .high, wPs := s.ps, wSi := s.si }

/-- R124: `AdpcmMode` of the five kinds. -/
def Obligations.AdpcmModeOfEachKind : Prop :=
  adpcmMode .audioKeyframe = .ok .reset ∧ adpcmMode .audioPredict = .ok .continue
    ∧ adpcmMode .videoKeyframe = .error .notAudio ∧ adpcmMode .videoPredict = .error .notAudio
    ∧ adpcmMode .videoHold = .error .notAudio

/-- R120, R212: a fetch at `pc < BUF_LEN` faults before any payload is looked at: fewer than 8 bytes left is `OutOfBounds`; an
unmapped type is `UnknownType`, an unmapped format of a mapped type `UnknownFormat`, whatever the size says, with the
header registers written; the output and the counters stay. -/
def Obligations.RecordFetchFaults : Prop :=
  ∀ s : State, s.runState = .walk → s.seq = .fetch → s.pc < s.bufLen →
    (s.bufLen < s.pc + 8 → ∃ t, step s = .next t ∧ Faulted s t .outOfBounds ∧ t.out = s.out)
    ∧ ∀ (ty f : Half) (z : Word32), s.pc + 8 ≤ s.bufLen →
      s.input.readBytes s.pc 8 = encodeRecHeader ⟨ty, f, z⟩ →
        (ty ≠ s.cfg.codeAudio → ty ≠ s.cfg.codeVideo → ∃ t, step s = .next t ∧ Faulted s t .unknownType
            ∧ t.out = s.out ∧ t.ps = s.ps ∧ t.si = s.si
            ∧ t.recType = ty ∧ t.recFormat = f ∧ t.recSize = z)
        ∧ (ty = s.cfg.codeAudio → f ≠ s.cfg.fmtAudioKeyframe → f ≠ s.cfg.fmtAudioPredict →
            ∃ t, step s = .next t ∧ Faulted s t .unknownFormat
              ∧ t.out = s.out ∧ t.recType = ty ∧ t.recFormat = f ∧ t.recSize = z)
        ∧ (ty = s.cfg.codeVideo → ty ≠ s.cfg.codeAudio → f ≠ s.cfg.fmtVideoKeyframe →
            f ≠ s.cfg.fmtVideoPredict → f ≠ s.cfg.fmtVideoHold →
            ∃ t, step s = .next t ∧ Faulted s t .unknownFormat
              ∧ t.out = s.out ∧ t.recType = ty ∧ t.recFormat = f ∧ t.recSize = z)

/-- R148, R192: the step that ends an audio record whose samples are all produced: Commit, then Complete: `N_AUDIO`,
`AUDIO_BYTES` by the whole `REC_SIZE`, one entry of `REC_OUT`, `REC_INDEX`, the cursor to `WIN_END`; nothing else changes. -/
def Obligations.AudioRecordCompletes : Prop :=
  ∀ s : State, s.runState = .walk → s.seq = .decode → s.rem = 0 → isAudio s.recKind = true →
    step s = .next { s with
      ps := s.wPs, si := s.wSi, nAudio := s.nAudio + 1, audioBytes := s.audioBytes + s.recSize.toNat,
      recOut := s.recOut ++ [(s.recStart, s.out.length - s.recStart)], recIndex := s.recIndex + 1,
      pc := s.winEnd, seq := .fetch }

/-! ### The sixteen codes -/

/-- R152 to R159: the codes with sign bit 0. `s` of the rules is the step size at the index before the code; each shift is
truncated on its own; the sample saturates, the index is clamped, the sample is emitted; nothing else changes. -/
def Obligations.PositiveCodes : Prop :=
  ∀ s : State, s.runState = .walk → s.seq = .decode → 0 < s.rem → s.cfg.legal = true → s.wSi.toNat ≤ 88 →
    let v : Nat := (s.cfg.stepTable.getD s.wSi.toNat 0).toNat
    (∃ t, exec .c0 s = .next t ∧ CodeEffect s t ((v / 8 : Nat) : Int) (-1))
    ∧ (∃ t, exec .c1 s = .next t ∧ CodeEffect s t ((v / 8 + v / 4 : Nat) : Int) (-1))
    ∧ (∃ t, exec .c2 s = .next t ∧ CodeEffect s t ((v / 8 + v / 2 : Nat) : Int) (-1))
    ∧ (∃ t, exec .c3 s = .next t ∧ CodeEffect s t ((v / 8 + v / 4 + v / 2 : Nat) : Int) (-1))
    ∧ (∃ t, exec .c4 s = .next t ∧ CodeEffect s t ((v / 8 + v : Nat) : Int) 2)
    ∧ (∃ t, exec .c5 s = .next t ∧ CodeEffect s t ((v / 8 + v / 4 + v : Nat) : Int) 4)
    ∧ (∃ t, exec .c6 s = .next t ∧ CodeEffect s t ((v / 8 + v / 2 + v : Nat) : Int) 6)
    ∧ (∃ t, exec .c7 s = .next t ∧ CodeEffect s t ((v / 8 + v / 4 + v / 2 + v : Nat) : Int) 8)

/-- R160 to R167: the codes with sign bit 1. -/
def Obligations.NegativeCodes : Prop :=
  ∀ s : State, s.runState = .walk → s.seq = .decode → 0 < s.rem → s.cfg.legal = true → s.wSi.toNat ≤ 88 →
    let v : Nat := (s.cfg.stepTable.getD s.wSi.toNat 0).toNat
    (∃ t, exec .c8 s = .next t ∧ CodeEffect s t (-((v / 8 : Nat) : Int)) (-1))
    ∧ (∃ t, exec .c9 s = .next t ∧ CodeEffect s t (-((v / 8 + v / 4 : Nat) : Int)) (-1))
    ∧ (∃ t, exec .cA s = .next t ∧ CodeEffect s t (-((v / 8 + v / 2 : Nat) : Int)) (-1))
    ∧ (∃ t, exec .cB s = .next t ∧ CodeEffect s t (-((v / 8 + v / 4 + v / 2 : Nat) : Int)) (-1))
    ∧ (∃ t, exec .cC s = .next t ∧ CodeEffect s t (-((v / 8 + v : Nat) : Int)) 2)
    ∧ (∃ t, exec .cD s = .next t ∧ CodeEffect s t (-((v / 8 + v / 4 + v : Nat) : Int)) 4)
    ∧ (∃ t, exec .cE s = .next t ∧ CodeEffect s t (-((v / 8 + v / 2 + v : Nat) : Int)) 6)
    ∧ (∃ t, exec .cF s = .next t ∧ CodeEffect s t (-((v / 8 + v / 4 + v / 2 + v : Nat) : Int)) 8)

/-! ### What runs out of sequence -/

/-- The model's choice (log 15, log 16): an operation the walker does not run where it stands is refused by name, and a code
whose working index has no step size stops with the model's fault. -/
def Obligations.OutOfSequenceIsRefused : Prop :=
  (∀ (s : State) (h : Header), s.runState ≠ .idle ∨ s.pc ≠ 0 → exec (.hdr h) s = .refused .headerOutOfSequence)
  ∧ (∀ (s : State) (z : Word32) (i : Instr), s.runState ≠ .walk ∨ s.seq ≠ .fetch →
      i ∈ [Instr.akey z, .apred z, .vkey z, .vpred z, .vhold z] → exec i s = .refused .recordOutOfSequence)
  ∧ (∀ (s : State) (i : Instr), s.runState ≠ .walk ∨ s.seq ≠ .decode ∨ s.rem = 0 → isCode i = true →
      exec i s = .refused .codeOutOfSequence)
  ∧ ∀ (s : State) (i : Instr), s.runState = .walk → s.seq = .decode → 0 < s.rem →
      s.cfg.stepTable.length ≤ s.wSi.toNat → isCode i = true → exec i s = .fault .noStepEntry

/-! ### Rules of the whole machine -/

/-- The invariant holds after a reset. -/
def Obligations.InvariantAtReset : Prop := BlockInv State.reset

/-- The invariant holds after a start command in `IDLE` from a state that meets it. -/
def Obligations.InvariantAfterStart : Prop :=
  ∀ (s t : State) (bytes : List Byte) (dup : Bool) (g : Option (Sample × BitVec 8)), BlockInv s →
    hostStart bytes dup g s = .next t → BlockInv t

/-- Every step keeps the invariant: the step index stays in 0..88 (R21, R168), the cursor in the buffer (R25), `REC_INDEX` is
`N_AUDIO + N_VIDEO` (R30), `REC_OUT` tiles the output (R33), `DONE` has `pc = BUF_LEN` (R200), the fault registers hold a
value exactly in `FAULT` (R32), the memory stays canonical. -/
def Obligations.EveryStepKeepsTheInvariant : Prop :=
  ∀ s t : State, BlockInv s → step s = .next t → BlockInv t

/-- R200, R203: from a state that meets the invariant a step always answers a next state: neither the model's fault nor a
refusal is ever reached. -/
def Obligations.StepsNeverStopUnderTheInvariant : Prop :=
  ∀ s : State, BlockInv s → ∃ t, step s = .next t

/-- R201, R253: every started run ends, in `DONE` or `FAULT`, within a number of steps the buffer's length bounds. The bound
`2 * BUF_LEN + 4` counts the model's steps (log 1). -/
def Obligations.EveryRunTerminates : Prop :=
  ∀ s : State, BlockInv s → (s.runState = .idle → s.started = true) →
    ∃ t, runFor (2 * s.bufLen + 4) s = .next t ∧ (t.runState = .done ∨ t.runState = .fault)

/-- R31, R223: `DONE` and `FAULT` are absorbing: a step leaves the state as it is. -/
def Obligations.DoneAndFaultAreAbsorbing : Prop :=
  ∀ s : State, s.runState = .done ∨ s.runState = .fault → step s = .next s

/-- R220, R221: whatever step enters `FAULT`, the fault registers hold the cause, the index of the record being executed and
the cursor, and cursor, counters and `REC_OUT` are as they were; for a fault in HDR index and offset are 0. -/
def Obligations.FaultEntryRecordsIndexAndOffset : Prop :=
  ∀ s t : State, s.runState ≠ .fault → step s = .next t → t.runState = .fault →
    ∃ c, t.fault = some ⟨c, s.recIndex, s.pc⟩ ∧ t.pc = s.pc ∧ t.nAudio = s.nAudio ∧ t.nVideo = s.nVideo
      ∧ t.audioBytes = s.audioBytes ∧ t.recIndex = s.recIndex ∧ t.recOut = s.recOut
      ∧ (BlockInv s → s.runState = .idle → t.fault = some ⟨c, 0, 0⟩)

/-- R222: the output of completed records is kept by a fault, and what may be there beyond it is at most what the faulting
record had emitted; when the faulting record is not an audio record, the output and `x[PS]`, `x[SI]` are as they were. -/
def Obligations.FaultKeepsCompletedOutput : Prop :=
  ∀ s t : State, BlockInv s → s.runState = .walk → step s = .next t → t.runState = .fault →
    t.out.take (recEnd s.recOut) = s.out.take (recEnd s.recOut)
      ∧ recEnd s.recOut ≤ t.out.length ∧ t.out.length ≤ s.out.length
      ∧ t.si.toNat ≤ 88
      ∧ (s.seq = .fetch → t.recValid = false ∨ t.recType ≠ s.cfg.codeAudio →
          t.out = s.out ∧ t.ps = s.ps ∧ t.si = s.si)

/-- R214: no step sets the fault cause `NotAudio`. -/
def Obligations.NotAudioIsNeverRaised : Prop :=
  ∀ s t : State, (∀ i, s.fault = some i → i.cause ≠ .notAudio) → step s = .next t →
    ∀ i, t.fault = some i → i.cause ≠ .notAudio

/-- R24, R25: the cursor stays while a record executes, goes from 0 to 0x3C by HDR, and else moves only forward, by 8 and the
size of the record that completes, never past the buffer. -/
def Obligations.CursorOnlyMovesForward : Prop :=
  ∀ s t : State, BlockInv s → step s = .next t →
    t.pc = s.pc ∨ (s.runState = .idle ∧ s.pc = 0 ∧ t.pc = 0x3C)
      ∨ (s.runState = .walk ∧ t.pc = s.pc + 8 + t.recSize.toNat ∧ t.pc ≤ s.bufLen
          ∧ t.recIndex = s.recIndex + 1)

/-- R62, R42: no operation and no step writes `IN`, or changes `BUF_LEN`, `DUP` or a parameter. -/
def Obligations.InputIsNeverWritten : Prop :=
  (∀ (i : Instr) (s t : State), exec i s = .next t → SameRun s t)
  ∧ ∀ s t : State, step s = .next t → SameRun s t

/-- R58: a step that does not fault leaves the cells of `OUT` as they are and adds at most two at the end. -/
def Obligations.OutputIsAppendOnly : Prop :=
  ∀ s t : State, step s = .next t → t.runState ≠ .fault →
    ∃ l, t.out = s.out ++ l ∧ l.length ≤ cellCount s.dup

/-- R22, R148: outside a fault, `x[PS]` and `x[SI]` change only by the commit that ends an audio record, and it is done there:
no video record, no code and no HDR touches them. A step that faults is left out, since after a fault of an audio record R222
leaves both values open (log 7). -/
def Obligations.AdpcmStateChangesOnlyByCommit : Prop :=
  ∀ s t : State, step s = .next t → t.runState ≠ .fault →
    if s.runState = .walk ∧ s.seq = .decode ∧ s.rem = 0 then t.ps = s.wPs ∧ t.si = s.wSi
    else t.ps = s.ps ∧ t.si = s.si

/-- R30, R226: the four counters change only when a record completes: `REC_INDEX` by one, and either `N_AUDIO` by one and
`AUDIO_BYTES` by the record's whole size, or `N_VIDEO` by one. -/
def Obligations.CountersChangeOnlyAtCompletion : Prop :=
  ∀ s t : State, step s = .next t →
    (t.recIndex = s.recIndex ∧ t.nAudio = s.nAudio ∧ t.nVideo = s.nVideo ∧ t.audioBytes = s.audioBytes
      ∧ t.recOut = s.recOut)
    ∨ (t.recIndex = s.recIndex + 1 ∧ t.pc = t.winEnd ∧ t.seq = .fetch ∧ t.nAudio = s.nAudio + 1
      ∧ t.nVideo = s.nVideo ∧ t.audioBytes = s.audioBytes + t.recSize.toNat ∧ isAudio t.recKind = true
      ∧ ∃ e, t.recOut = s.recOut ++ [e])
    ∨ (t.recIndex = s.recIndex + 1 ∧ t.pc = t.winEnd ∧ t.seq = .fetch ∧ t.nAudio = s.nAudio
      ∧ t.nVideo = s.nVideo + 1 ∧ t.audioBytes = s.audioBytes ∧ t.recOut = s.recOut
      ∧ isAudio t.recKind = false)

/-- R200: a step enters `DONE` only from the loop test between records, when the cursor is at or past the end of the buffer,
and then it does, changing nothing else. -/
def Obligations.DoneExactlyAtTheEndOfTheBuffer : Prop :=
  (∀ s : State, s.runState = .walk → s.seq = .fetch → s.bufLen ≤ s.pc →
    step s = .next { s with runState := .done })
  ∧ ∀ s t : State, s.runState ≠ .done → step s = .next t → t.runState = .done →
    s.runState = .walk ∧ s.seq = .fetch ∧ s.bufLen ≤ s.pc

/-- R27, R110: the header registers are written by HDR only: once the run has left `IDLE` no step changes them. -/
def Obligations.HeaderRegistersAreReadOnlyAfterHdr : Prop :=
  ∀ s t : State, s.runState ≠ .idle → step s = .next t → t.hdr = s.hdr ∧ t.hdrValid = s.hdrValid

/-- R28: no header register influences a step once the run has left `IDLE`: with other header contents the step answers the
same, but for those contents. Where the step is a fault of an audio record, R222 and U3 leave `x[PS]`, `x[SI]` and the tail of
`OUT` open; that the two answers agree there too is the model's choice (log 7: its free values are functions of `freeCtr`). -/
def Obligations.HeaderRegistersInfluenceNothing : Prop :=
  ∀ (s t : State) (h : Header), s.runState ≠ .idle → step s = .next t →
    step { s with hdr := h } = .next { t with hdr := h }

/-- R31, R231 (the model's choice, log 2): before the start command the block waits, and any step leaves it as it is. -/
def Obligations.NothingRunsBeforeStart : Prop :=
  ∀ s : State, s.runState = .idle → s.started = false → step s = .next s

/-! ### Whole records -/

/-- R195, with R144, R149, R150, R192: the whole of an AKEY record, header to Complete, as one result. If its payload fits the
buffer and the decode's needs, `n + 1` steps append the seed sample and the samples of the `n - 1` codes that follow it,
commit the final state and complete the record; else the run ends in `FAULT` with the first cause in R195's order, and what
completed records had produced is kept. The `n + 1` steps count the model's steps (log 1). -/
def Obligations.WholeKeyframeRecord : Prop :=
  ∀ (s : State) (z : Word32), BlockInv s → s.runState = .walk → s.seq = .fetch → s.pc + 8 ≤ s.bufLen →
    recordAt s s.pc .audioKeyframe z →
    let n := samplesAt s s.pc
    let b0 := (s.input.read (s.pc + 12)).toNat
    let b1 := (s.input.read (s.pc + 13)).toNat
    let seed : Int := (BitVec.ofNat 16 (b0 * 256 + b1 / 128 * 128)).toInt
    let cs := codesFrom s.input (s.pc + 14) (n - 1)
    let faults (c : FaultCause) : Prop := ∃ k t, runFor k s = .next t ∧ Faulted s t c
      ∧ t.out.take s.out.length = s.out
    if s.bufLen < s.pc + 8 + z.toNat then faults .outOfBounds
    else if z.toNat < 4 then faults .outOfBounds
    else if n = 0 then faults .badSampleCount
    else if z.toNat < 6 then faults .outOfBounds
    else if 88 < b1 % 128 then faults .stepIndexRange
    else if z.toNat - 4 < 2 + n / 2 then faults .outOfBounds
    else ∃ t, runFor (n + 1) s = .next t ∧ t.runState = .walk ∧ t.seq = .fetch ∧ t.pc = s.pc + 8 + z.toNat
      ∧ outInts t = outInts s ++ fanOut s.dup (seed :: refSamples s.cfg.stepTable (seed, b1 % 128) cs)
      ∧ adpcm t = refFinal s.cfg.stepTable (seed, b1 % 128) cs
      ∧ t.nAudio = s.nAudio + 1 ∧ t.nVideo = s.nVideo ∧ t.audioBytes = s.audioBytes + z.toNat
      ∧ t.recIndex = s.recIndex + 1 ∧ t.recOut = s.recOut ++ [(s.out.length, n * cellCount s.dup)]
      ∧ t.fault = none ∧ t.hdr = s.hdr ∧ SameRun s t

/-- R196, with R143, R149, R150, R192: the whole of an APRED record as one result, from the carried `x[PS]`, `x[SI]`: `n + 2`
steps, `n` codes; `n = 0` is legal and leaves the ADPCM state and the output as they were. The `n + 2` steps count the model's
steps (log 1). -/
def Obligations.WholePredictRecord : Prop :=
  ∀ (s : State) (z : Word32), BlockInv s → s.runState = .walk → s.seq = .fetch → s.pc + 8 ≤ s.bufLen →
    recordAt s s.pc .audioPredict z →
    let n := samplesAt s s.pc
    let cs := codesFrom s.input (s.pc + 12) n
    let faults (c : FaultCause) : Prop := ∃ k t, runFor k s = .next t ∧ Faulted s t c
      ∧ t.out.take s.out.length = s.out
    if s.bufLen < s.pc + 8 + z.toNat then faults .outOfBounds
    else if z.toNat < 4 then faults .outOfBounds
    else if z.toNat - 4 < (n + 1) / 2 then faults .outOfBounds
    else ∃ t, runFor (n + 2) s = .next t ∧ t.runState = .walk ∧ t.seq = .fetch ∧ t.pc = s.pc + 8 + z.toNat
      ∧ outInts t = outInts s ++ fanOut s.dup (refSamples s.cfg.stepTable (adpcm s) cs)
      ∧ adpcm t = refFinal s.cfg.stepTable (adpcm s) cs
      ∧ t.nAudio = s.nAudio + 1 ∧ t.nVideo = s.nVideo ∧ t.audioBytes = s.audioBytes + z.toNat
      ∧ t.recIndex = s.recIndex + 1 ∧ t.recOut = s.recOut ++ [(s.out.length, n * cellCount s.dup)]
      ∧ t.fault = none ∧ t.hdr = s.hdr ∧ SameRun s t

/-- R144, R168 (a): a Reset record forgets what came before: whatever `x[PS]`, `x[SI]` were, a completed AKEY record of `n`
samples ends in the very same state. That such a record is `n + 1` steps is the model's count (log 1). -/
def Obligations.ResetRecordForgetsPriorState : Prop :=
  ∀ (s t : State) (z : Word32) (p : Sample) (i : BitVec 8), s.runState = .walk → s.seq = .fetch →
    s.pc + 8 ≤ s.bufLen → s.cfg.codesDistinct = true → recordAt s s.pc .audioKeyframe z → 0 < samplesAt s s.pc →
    runFor (samplesAt s s.pc + 1) s = .next t → t.runState = .walk →
      runFor (samplesAt s s.pc + 1) { s with ps := p, si := i } = .next t

/-- R168 (d): decoding an APRED record A and then an APRED record B equals decoding in one APRED record the codes of A followed
by those of B, re-packed: the same samples appended and the same `x[PS]`, `x[SI]`. The lengths of the two runs, a record's codes
and 2, count the model's steps (log 1). -/
def Obligations.ContinuityAcrossRecords : Prop :=
  ∀ (s s' : State) (zA zB z' : Word32), BlockInv s → BlockInv s' →
    s.runState = .walk → s.seq = .fetch → s'.runState = .walk → s'.seq = .fetch →
    s'.cfg = s.cfg → s'.dup = s.dup → s'.ps = s.ps → s'.si = s.si →
    let pB := s.pc + 8 + zA.toNat
    let nA := samplesAt s s.pc
    let nB := samplesAt s pB
    pB + 8 + zB.toNat ≤ s.bufLen → s'.pc + 8 + z'.toNat ≤ s'.bufLen →
    recordAt s s.pc .audioPredict zA → recordAt s pB .audioPredict zB → recordAt s' s'.pc .audioPredict z' →
    4 + (nA + 1) / 2 ≤ zA.toNat → 4 + (nB + 1) / 2 ≤ zB.toNat → 4 + (nA + nB + 1) / 2 ≤ z'.toNat →
    samplesAt s' s'.pc = nA + nB →
    codesFrom s'.input (s'.pc + 12) (nA + nB)
      = codesFrom s.input (s.pc + 12) nA ++ codesFrom s.input (pB + 12) nB →
      ∃ t t', runFor (nA + 2 + (nB + 2)) s = .next t ∧ runFor (nA + nB + 2) s' = .next t'
        ∧ t.runState = .walk ∧ t'.runState = .walk
        ∧ t.out.drop s.out.length = t'.out.drop s'.out.length ∧ t.ps = t'.ps ∧ t.si = t'.si

/-- U6 of 93_implementation_defined.md, with R89, R150, R197, R198, R199: input the block never reads has no effect. Take any
other input that has the same record header: a video record ends in the same state whatever its payload holds; an APRED
record does when the sub-header and the record's codes are the same, an AKEY record when also the seed bytes are, whatever
the excess payload, the unread low nibble of an odd code count and everything outside the record hold. The runs of `n + 2`
and `n + 1` steps count the model's steps (log 1). Where the audio record faults, R222 and U3 leave `x[PS]`, `x[SI]` and the tail
of `OUT` open; that they agree there too is the model's choice (log 7: its free values are functions of `freeCtr`). -/
def Obligations.UnreadBytesHaveNoEffect : Prop :=
  ∀ (s t : State) (m : Memory) (z : Word32), s.runState = .walk → s.seq = .fetch → s.pc + 8 ≤ s.bufLen →
    s.cfg.codesDistinct = true → m.readBytes s.pc 8 = s.input.readBytes s.pc 8 →
    let n := samplesAt s s.pc
    (∀ k ∈ [RecKind.videoKeyframe, .videoPredict, .videoHold], recordAt s s.pc k z → step s = .next t →
      step { s with input := m } = .next { t with input := m })
    ∧ (recordAt s s.pc .audioPredict z → m.readBytes (s.pc + 8) 4 = s.input.readBytes (s.pc + 8) 4 →
      codesFrom m (s.pc + 12) n = codesFrom s.input (s.pc + 12) n → runFor (n + 2) s = .next t →
        runFor (n + 2) { s with input := m } = .next { t with input := m })
    ∧ (recordAt s s.pc .audioKeyframe z → m.readBytes (s.pc + 8) 6 = s.input.readBytes (s.pc + 8) 6 →
      codesFrom m (s.pc + 14) (n - 1) = codesFrom s.input (s.pc + 14) (n - 1) → runFor (n + 1) s = .next t →
        runFor (n + 1) { s with input := m } = .next { t with input := m })

/-- R64: "During a run the host reads nothing": from the start command on, in `IDLE` and in `WALK`, the read of `RUN_STATE` is
refused; after the run it answers `DONE` or `FAULT` (R222, R231). That it answers `IDLE` before a start is the model's choice
(log 23). -/
def Obligations.RunStateIsNotReadDuringARun : Prop :=
  ∀ s : State,
    (s.runState = .walk ∨ (s.runState = .idle ∧ s.started = true) → hostRunState s = .error .runNotEnded)
    ∧ (s.runState = .done ∨ s.runState = .fault → hostRunState s = .ok s.runState)
    ∧ (s.runState = .idle → s.started = false → hostRunState s = .ok .idle)
end

