-- ==== Sys2Proof/Laws/Memory.lean ====
section
/-! SUPPORT. Laws of the byte memory and of the byte order: a read after a write, the canonical form kept by every memory
operation, and the round trips between bytes and numbers. -/

namespace Sys2Proof.Machine

/-! ### The canonical form -/

theorem wf_iff (m : Memory) :
    m.wf = true ↔ m.Pairwise (fun c d => c.1 < d.1) ∧ ∀ c ∈ m, c.2 ≠ 0 := by
  simp [Memory.wf]

theorem wf_nil : Memory.wf [] = true := by decide

theorem wf_tail {c : Host.Cell} {m : Memory} (h : Memory.wf (c :: m) = true) : Memory.wf m = true := by
  rw [wf_iff] at h ⊢
  exact ⟨(List.pairwise_cons.1 h.1).2, fun d hd => h.2 d (List.mem_cons_of_mem _ hd)⟩

theorem wf_head_lt {c d : Host.Cell} {m : Memory} (h : Memory.wf (c :: m) = true) (hd : d ∈ m) : c.1 < d.1 :=
  (List.pairwise_cons.1 ((wf_iff _).1 h).1).1 d hd

/-- A memory that lists no cell at an address reads as 0 there. -/
theorem read_of_not_listed {m : Memory} {a : Nat} (h : ∀ c ∈ m, c.1 ≠ a) : m.read a = 0 := by
  induction m with
  | nil => rfl
  | cons c m ih =>
    have hc : a ≠ c.1 := (h c List.mem_cons_self).symm
    simp only [Memory.read, hc, if_false]
    exact ih fun d hd => h d (List.mem_cons_of_mem _ hd)

/-- Below the first cell of a canonical memory everything reads as 0. -/
theorem read_below {c : Host.Cell} {m : Memory} (h : Memory.wf (c :: m) = true) {a : Nat} (ha : a < c.1) :
    Memory.read (c :: m) a = 0 := by
  refine read_of_not_listed fun d hd => ?_
  rcases List.mem_cons.1 hd with rfl | hd
  · omega
  · have := wf_head_lt h hd
    omega

/-! ### Writes -/

theorem read_write_same {m : Memory} (h : m.wf = true) (a : Nat) (b : Byte) : (m.write a b).read a = b := by
  induction m with
  | nil =>
    unfold Memory.write
    split
    · rename_i hb
      rw [hb]
      rfl
    · simp [Memory.read]
  | cons c m ih =>
    obtain ⟨k, v⟩ := c
    unfold Memory.write
    split
    · rename_i hlt
      split
      · rename_i hb
        rw [read_below h hlt, hb]
      · simp [Memory.read]
    · split
      · rename_i heq
        split
        · rename_i hb
          rw [hb]
          refine read_of_not_listed fun d hd => ?_
          have := wf_head_lt h hd
          subst heq
          exact fun he => absurd he (by simp at this; omega)
        · simp [Memory.read]
      · rename_i hne
        simp only [Memory.read, hne, if_false]
        exact ih (wf_tail h)

theorem read_write_other (m : Memory) {a a' : Nat} (b : Byte) (h : a' ≠ a) : (m.write a b).read a' = m.read a' := by
  induction m with
  | nil =>
    unfold Memory.write
    split <;> simp [Memory.read, h]
  | cons c m ih =>
    obtain ⟨k, v⟩ := c
    unfold Memory.write
    split
    · split <;> simp [Memory.read, h]
    · split
      · rename_i heq
        subst heq
        split <;> simp [Memory.read, h]
      · simp only [Memory.read, ih]

/-- Which cells a write can list. -/
theorem mem_write {m : Memory} {a : Nat} {b : Byte} {c : Host.Cell} (h : c ∈ m.write a b) :
    c ∈ m ∨ (c = (a, b) ∧ b ≠ 0) := by
  induction m with
  | nil =>
    unfold Memory.write at h
    split at h
    · cases h
    · rename_i hb
      exact .inr ⟨List.mem_singleton.1 h, hb⟩
  | cons d m ih =>
    obtain ⟨k, v⟩ := d
    unfold Memory.write at h
    split at h
    · split at h
      · exact .inl h
      · rename_i hb
        rcases List.mem_cons.1 h with rfl | h
        · exact .inr ⟨rfl, hb⟩
        · exact .inl h
    · split at h
      · split at h
        · exact .inl (List.mem_cons_of_mem _ h)
        · rename_i hb
          rcases List.mem_cons.1 h with rfl | h
          · exact .inr ⟨rfl, hb⟩
          · exact .inl (List.mem_cons_of_mem _ h)
      · rcases List.mem_cons.1 h with rfl | h
        · exact .inl List.mem_cons_self
        · rcases ih h with h | h
          · exact .inl (List.mem_cons_of_mem _ h)
          · exact .inr h

theorem write_wf {m : Memory} (h : m.wf = true) (a : Nat) (b : Byte) : (m.write a b).wf = true := by
  induction m with
  | nil =>
    unfold Memory.write
    split
    · exact wf_nil
    · rename_i hb
      exact (wf_iff _).2 ⟨List.pairwise_singleton _ _, fun c hc => by
        rw [List.mem_singleton.1 hc]
        exact hb⟩
  | cons c m ih =>
    obtain ⟨k, v⟩ := c
    have h' := (wf_iff _).1 h
    unfold Memory.write
    split
    · rename_i hlt
      split
      · exact h
      · rename_i hb
        rw [wf_iff]
        refine ⟨List.pairwise_cons.2 ⟨fun d hd => ?_, h'.1⟩, fun d hd => ?_⟩
        · rcases List.mem_cons.1 hd with rfl | hd
          · exact hlt
          · exact lt_trans hlt (wf_head_lt h hd)
        · rcases List.mem_cons.1 hd with rfl | hd
          · exact hb
          · exact h'.2 d hd
    · split
      · rename_i heq
        subst heq
        split
        · exact wf_tail h
        · rename_i hb
          rw [wf_iff]
          refine ⟨List.pairwise_cons.2 ⟨fun d hd => (List.pairwise_cons.1 h'.1).1 d hd, (List.pairwise_cons.1 h'.1).2⟩, fun d hd => ?_⟩
          rcases List.mem_cons.1 hd with rfl | hd
          · exact hb
          · exact h'.2 d (List.mem_cons_of_mem _ hd)
      · rename_i hge hne
        have hw := ih (wf_tail h)
        rw [wf_iff] at hw ⊢
        refine ⟨List.pairwise_cons.2 ⟨fun d hd => ?_, hw.1⟩, fun d hd => ?_⟩
        · rcases mem_write hd with hd | ⟨rfl, -⟩
          · exact wf_head_lt h hd
          · show k < a
            omega
        · rcases List.mem_cons.1 hd with rfl | hd
          · exact h'.2 _ List.mem_cons_self
          · exact hw.2 d hd

theorem writeBytes_wf {m : Memory} (h : m.wf = true) (a : Nat) (bs : List Byte) : (m.writeBytes a bs).wf = true := by
  induction bs generalizing m a with
  | nil => exact h
  | cons b bs ih => exact ih (write_wf h a b) (a + 1)

theorem mem_ofBytes {a : Nat} {bs : List Byte} {c : Host.Cell} (h : c ∈ Memory.ofBytes a bs) :
    a ≤ c.1 ∧ c.1 < a + bs.length ∧ c.2 ≠ 0 := by
  induction bs generalizing a with
  | nil => cases h
  | cons b bs ih =>
    unfold Memory.ofBytes at h
    split at h
    · obtain ⟨h1, h2, h3⟩ := ih h
      simp only [List.length_cons]
      exact ⟨by omega, by omega, h3⟩
    · rename_i hb
      rcases List.mem_cons.1 h with rfl | h
      · simp only [List.length_cons]
        exact ⟨le_refl _, by omega, hb⟩
      · obtain ⟨h1, h2, h3⟩ := ih h
        simp only [List.length_cons]
        exact ⟨by omega, by omega, h3⟩

theorem ofBytes_wf (a : Nat) (bs : List Byte) : (Memory.ofBytes a bs).wf = true := by
  induction bs generalizing a with
  | nil => rfl
  | cons b bs ih =>
    unfold Memory.ofBytes
    split
    · exact ih (a + 1)
    · rename_i hb
      have h := (wf_iff _).1 (ih (a + 1))
      rw [wf_iff]
      refine ⟨List.pairwise_cons.2 ⟨fun d hd => ?_, h.1⟩, fun d hd => ?_⟩
      · have := (mem_ofBytes hd).1
        show a < d.1
        omega
      · rcases List.mem_cons.1 hd with rfl | hd
        · exact hb
        · exact h.2 d hd

/-- A loaded byte reads back. -/
theorem read_ofBytes (a k : Nat) (bs : List Byte) : (Memory.ofBytes a bs).read (a + k) = bs.getD k 0 := by
  induction bs generalizing a k with
  | nil => rfl
  | cons b bs ih =>
    cases k with
    | zero =>
      unfold Memory.ofBytes
      split
      · rename_i hb
        rw [read_of_not_listed, hb]
        · rfl
        · intro c hc
          have := (mem_ofBytes hc).1
          omega
      · simp [Memory.read]
    | succ k =>
      have hk : a + (k + 1) = (a + 1) + k := by omega
      unfold Memory.ofBytes
      split
      · rw [hk, ih (a + 1) k]
        rfl
      · have : a + (k + 1) ≠ a := by omega
        simp only [Memory.read, this, if_false]
        rw [hk, ih (a + 1) k]
        rfl

/-! ### Reading several bytes -/

@[simp] theorem readBytes_length (m : Memory) (a n : Nat) : (m.readBytes a n).length = n := by
  induction n generalizing a with
  | zero => rfl
  | succ n ih => simp [Memory.readBytes, ih]

theorem readBytes_take (m : Memory) (a n k : Nat) (h : k ≤ n) : (m.readBytes a n).take k = m.readBytes a k := by
  induction k generalizing a n with
  | zero => rfl
  | succ k ih =>
    cases n with
    | zero => omega
    | succ n => simp [Memory.readBytes, ih (a + 1) n (by omega)]

theorem readBytes_drop (m : Memory) (a n k : Nat) : (m.readBytes a n).drop k = m.readBytes (a + k) (n - k) := by
  induction k generalizing a n with
  | zero => simp
  | succ k ih =>
    cases n with
    | zero => simp [Memory.readBytes]
    | succ n =>
      simp only [Memory.readBytes, List.drop_succ_cons, ih (a + 1) n]
      congr 1 <;> omega

/-- A read port that answers, answers the bytes of `IN`, inside the buffer (R52). -/
theorem readBytes_eq_some {s : State} {a n : Nat} {bs : List Byte} :
    readBytes s a n = some bs ↔ a + n ≤ s.bufLen ∧ bs = s.input.readBytes a n := by
  unfold readBytes
  split
  · simp; omega
  · simp; constructor
    · rintro rfl; exact ⟨by omega, rfl⟩
    · rintro ⟨-, rfl⟩; rfl

theorem readBytes_eq_none {s : State} {a n : Nat} : readBytes s a n = none ↔ s.bufLen < a + n := by
  unfold readBytes
  split <;> simp_all

theorem memReadW_eq_some {s : State} {a n v : Nat} :
    memReadW s a n = some v ↔ a + n ≤ s.winEnd ∧ a + n ≤ s.bufLen ∧ v = beNat (s.input.readBytes a n) := by
  unfold memReadW memRead readBytes
  split
  · simp; omega
  · split
    · simp; omega
    · simp; constructor
      · rintro rfl; exact ⟨by omega, by omega, rfl⟩
      · rintro ⟨-, -, rfl⟩; rfl

theorem memReadW_eq_none {s : State} {a n : Nat} :
    memReadW s a n = none ↔ s.winEnd < a + n ∨ s.bufLen < a + n := by
  unfold memReadW memRead readBytes
  split
  · simp_all
  · split <;> simp_all

end Sys2Proof.Machine

namespace Sys2Proof

/-! ### Bytes and numbers -/

@[simp] theorem beBytes_length (n v : Nat) : (beBytes n v).length = n := by
  induction n with
  | zero => rfl
  | succ n ih => simp [beBytes, ih]

theorem beNat_lt (bs : List Byte) : beNat bs < 256 ^ bs.length := by
  induction bs with
  | nil => simp [beNat]
  | cons b bs ih =>
    have hb := b.isLt
    simp only [beNat, List.length_cons, pow_succ]
    nlinarith

theorem beNat_append (as bs : List Byte) : beNat (as ++ bs) = beNat as * 256 ^ bs.length + beNat bs := by
  induction as with
  | nil => simp [beNat]
  | cons a as ih =>
    simp only [List.cons_append, beNat, ih, List.length_append, pow_add]
    ring

/-- The bytes of a number give it back, as far as they reach. -/
theorem beNat_beBytes (n v : Nat) : beNat (beBytes n v) = v % 256 ^ n := by
  induction n with
  | zero => simp [beBytes, beNat, Nat.mod_one]
  | succ n ih =>
    simp only [beBytes, beNat, beBytes_length, ih, BitVec.toNat_ofNat]
    rw [show (2 : Nat) ^ 8 = 256 from rfl, pow_succ 256 n, Nat.mod_mul, Nat.mul_comm]
    omega

theorem beNat_beBytes_of_lt {n v : Nat} (h : v < 256 ^ n) : beNat (beBytes n v) = v := by
  rw [beNat_beBytes, Nat.mod_eq_of_lt h]

/-- The bytes whose number it is are the bytes of a number. -/
theorem beBytes_beNat (bs : List Byte) : beBytes bs.length (beNat bs) = bs := by
  induction bs with
  | nil => rfl
  | cons b bs ih =>
    have hlt := beNat_lt bs
    have hpos : 0 < 256 ^ bs.length := by positivity
    have hdiv : (b.toNat * 256 ^ bs.length + beNat bs) / 256 ^ bs.length = b.toNat := by
      rw [Nat.add_comm, Nat.add_mul_div_right _ _ hpos, Nat.div_eq_of_lt hlt, Nat.zero_add]
    have hmod : ∀ n v w, v % 256 ^ n = w % 256 ^ n → beBytes n v = beBytes n w := by
      intro n
      induction n with
      | zero => intros; rfl
      | succ n ihn =>
        intro v w hvw
        have h1 : v % 256 ^ n = w % 256 ^ n := by
          have := congrArg (· % 256 ^ n) hvw
          simpa [pow_succ, Nat.mod_mul_right_mod] using this
        have h2 : v / 256 ^ n % 256 = w / 256 ^ n % 256 := by
          have := congrArg (· / 256 ^ n) hvw
          simpa [pow_succ, Nat.mod_mul_right_div_self] using this
        simp only [beBytes, ihn v w h1, List.cons.injEq, and_true]
        apply BitVec.eq_of_toNat_eq
        simpa using h2
    simp only [List.length_cons, beBytes, beNat, hdiv]
    congr 1
    · simp
    · rw [hmod bs.length (b.toNat * 256 ^ bs.length + beNat bs) (beNat bs) (by simp), ih]

/-- Fields of the widths they were written in read back (R83). -/
theorem splitFields_joinFields {ws vs : List Nat} (h : fieldsFit ws vs = true) :
    splitFields ws (joinFields ws vs) = vs := by
  induction ws generalizing vs with
  | nil => cases vs <;> simp_all [fieldsFit, splitFields]
  | cons w ws ih =>
    cases vs with
    | nil => simp [fieldsFit] at h
    | cons v vs =>
      simp only [fieldsFit, Bool.and_eq_true, decide_eq_true_eq] at h
      simp [joinFields, splitFields, beNat_beBytes_of_lt h.1, ih h.2]

theorem joinFields_length {ws vs : List Nat} (h : ws.length = vs.length) : (joinFields ws vs).length = ws.sum := by
  induction ws generalizing vs with
  | nil => cases vs <;> simp [joinFields]
  | cons w ws ih =>
    cases vs with
    | nil => simp at h
    | cons v vs => simp [joinFields, ih (by simpa using h)]

/-- Each header is the header of its fields (R83). -/
theorem headerOf_fields (h : Header) : headerOf h.tag h.fields = h := by
  cases h
  simp [headerOf, Header.fields]

theorem splitFields_length (ws : List Nat) (bs : List Byte) : (splitFields ws bs).length = ws.length := by
  induction ws generalizing bs with
  | nil => rfl
  | cons w ws ih => simp [splitFields, ih]

/-- What is read fits its width (R83). -/
theorem fieldsFit_splitFields {ws : List Nat} {bs : List Byte} (h : ws.sum ≤ bs.length) :
    fieldsFit ws (splitFields ws bs) = true := by
  induction ws generalizing bs with
  | nil => rfl
  | cons w ws ih =>
    simp only [List.sum_cons] at h
    have := beNat_lt (bs.take w)
    rw [List.length_take, min_eq_left (by omega)] at this
    simp only [splitFields, fieldsFit, Bool.and_eq_true, decide_eq_true_eq]
    exact ⟨this, ih (by simp; omega)⟩

theorem fieldsFit_length {ws vs : List Nat} (h : fieldsFit ws vs = true) : ws.length = vs.length := by
  induction ws generalizing vs with
  | nil => cases vs <;> simp_all [fieldsFit]
  | cons w ws ih =>
    cases vs with
    | nil => simp [fieldsFit] at h
    | cons v vs =>
      simp only [fieldsFit, Bool.and_eq_true, decide_eq_true_eq] at h
      simp [ih h.2]

/-- Fields of at most 4 bytes fit the header registers (R56; log 14). -/
theorem fieldsFit_lt {ws vs : List Nat} (h : fieldsFit ws vs = true) (hw : ∀ w ∈ ws, w = 1 ∨ w = 2 ∨ w = 4) :
    ∀ v ∈ vs, v < 2 ^ 32 := by
  induction ws generalizing vs with
  | nil => cases vs <;> simp_all [fieldsFit]
  | cons w ws ih =>
    cases vs with
    | nil => simp
    | cons v vs =>
      simp only [fieldsFit, Bool.and_eq_true, decide_eq_true_eq] at h
      intro x hx
      rcases List.mem_cons.1 hx with rfl | hx
      · have := h.1
        rcases hw w List.mem_cons_self with rfl | rfl | rfl <;> norm_num at this ⊢ <;> omega
      · exact ih h.2 (fun w hw' => hw w (List.mem_cons_of_mem _ hw')) x hx

/-- The fields of the header of 18 values are those values (R83). -/
theorem fields_headerOf {tag : BitVec 128} {f : List Nat} (hl : f.length = 18) (h : ∀ v ∈ f, v < 2 ^ 32) :
    (headerOf tag f).fields = f := by
  match f, hl with
  | [_, _, _, _, _, _, _, _, _, _, _, _, _, _, _, _, _, _], _ =>
    simp only [List.forall_mem_cons] at h
    simp only [headerOf, Header.fields, List.getD_cons_zero, List.getD_cons_succ, BitVec.toNat_ofNat]
    obtain ⟨_, _, _, _, _, _, _, _, _, _, _, _, _, _, _, _, _, _, -⟩ := h
    simp only [Nat.mod_eq_of_lt, *]

end Sys2Proof
end

