-- ==== Sys2Proof/Laws/State.lean ====
section
/-! SUPPORT. What each state update of Machine/ does to each field: one lemma per field per update, so that no later proof
unfolds a record update. -/

namespace Sys2Proof.Machine

variable (s : State)

/-! ### emit -/

@[simp] theorem emit_runState (v : Sample) : (emit v s).runState = s.runState := rfl
@[simp] theorem emit_seq (v : Sample) : (emit v s).seq = s.seq := rfl
@[simp] theorem emit_started (v : Sample) : (emit v s).started = s.started := rfl
@[simp] theorem emit_fault (v : Sample) : (emit v s).fault = s.fault := rfl
@[simp] theorem emit_pc (v : Sample) : (emit v s).pc = s.pc := rfl
@[simp] theorem emit_nAudio (v : Sample) : (emit v s).nAudio = s.nAudio := rfl
@[simp] theorem emit_nVideo (v : Sample) : (emit v s).nVideo = s.nVideo := rfl
@[simp] theorem emit_audioBytes (v : Sample) : (emit v s).audioBytes = s.audioBytes := rfl
@[simp] theorem emit_recIndex (v : Sample) : (emit v s).recIndex = s.recIndex := rfl
@[simp] theorem emit_hdr (v : Sample) : (emit v s).hdr = s.hdr := rfl
@[simp] theorem emit_hdrValid (v : Sample) : (emit v s).hdrValid = s.hdrValid := rfl
@[simp] theorem emit_recType (v : Sample) : (emit v s).recType = s.recType := rfl
@[simp] theorem emit_recFormat (v : Sample) : (emit v s).recFormat = s.recFormat := rfl
@[simp] theorem emit_recSize (v : Sample) : (emit v s).recSize = s.recSize := rfl
@[simp] theorem emit_recValid (v : Sample) : (emit v s).recValid = s.recValid := rfl
@[simp] theorem emit_recKind (v : Sample) : (emit v s).recKind = s.recKind := rfl
@[simp] theorem emit_winEnd (v : Sample) : (emit v s).winEnd = s.winEnd := rfl
@[simp] theorem emit_kindValid (v : Sample) : (emit v s).kindValid = s.kindValid := rfl
@[simp] theorem emit_recSamples (v : Sample) : (emit v s).recSamples = s.recSamples := rfl
@[simp] theorem emit_samplesValid (v : Sample) : (emit v s).samplesValid = s.samplesValid := rfl
@[simp] theorem emit_recStart (v : Sample) : (emit v s).recStart = s.recStart := rfl
@[simp] theorem emit_rem (v : Sample) : (emit v s).rem = s.rem := rfl
@[simp] theorem emit_inp (v : Sample) : (emit v s).inp = s.inp := rfl
@[simp] theorem emit_phase (v : Sample) : (emit v s).phase = s.phase := rfl
@[simp] theorem emit_dup (v : Sample) : (emit v s).dup = s.dup := rfl
@[simp] theorem emit_bufLen (v : Sample) : (emit v s).bufLen = s.bufLen := rfl
@[simp] theorem emit_input (v : Sample) : (emit v s).input = s.input := rfl
@[simp] theorem emit_cfg (v : Sample) : (emit v s).cfg = s.cfg := rfl
@[simp] theorem emit_recOut (v : Sample) : (emit v s).recOut = s.recOut := rfl
@[simp] theorem emit_freeCtr (v : Sample) : (emit v s).freeCtr = s.freeCtr := rfl
@[simp] theorem emit_wPs (v : Sample) : (emit v s).wPs = s.wPs := rfl
@[simp] theorem emit_wSi (v : Sample) : (emit v s).wSi = s.wSi := rfl
@[simp] theorem emit_out (v : Sample) : (emit v s).out = s.out ++ cellsOf s.dup v := rfl
@[simp] theorem emit_ps (v : Sample) : (emit v s).ps = s.ps := rfl
@[simp] theorem emit_si (v : Sample) : (emit v s).si = s.si := rfl

/-! ### raise -/

@[simp] theorem raise_runState (c : FaultCause) : (raise c s).runState = .fault := rfl
@[simp] theorem raise_seq (c : FaultCause) : (raise c s).seq = s.seq := rfl
@[simp] theorem raise_started (c : FaultCause) : (raise c s).started = s.started := rfl
@[simp] theorem raise_fault (c : FaultCause) : (raise c s).fault = some ⟨c, s.recIndex, s.pc⟩ := rfl
@[simp] theorem raise_pc (c : FaultCause) : (raise c s).pc = s.pc := rfl
@[simp] theorem raise_nAudio (c : FaultCause) : (raise c s).nAudio = s.nAudio := rfl
@[simp] theorem raise_nVideo (c : FaultCause) : (raise c s).nVideo = s.nVideo := rfl
@[simp] theorem raise_audioBytes (c : FaultCause) : (raise c s).audioBytes = s.audioBytes := rfl
@[simp] theorem raise_recIndex (c : FaultCause) : (raise c s).recIndex = s.recIndex := rfl
@[simp] theorem raise_hdr (c : FaultCause) : (raise c s).hdr = s.hdr := rfl
@[simp] theorem raise_hdrValid (c : FaultCause) : (raise c s).hdrValid = s.hdrValid := rfl
@[simp] theorem raise_recType (c : FaultCause) : (raise c s).recType = s.recType := rfl
@[simp] theorem raise_recFormat (c : FaultCause) : (raise c s).recFormat = s.recFormat := rfl
@[simp] theorem raise_recSize (c : FaultCause) : (raise c s).recSize = s.recSize := rfl
@[simp] theorem raise_recValid (c : FaultCause) : (raise c s).recValid = s.recValid := rfl
@[simp] theorem raise_recKind (c : FaultCause) : (raise c s).recKind = s.recKind := rfl
@[simp] theorem raise_winEnd (c : FaultCause) : (raise c s).winEnd = s.winEnd := rfl
@[simp] theorem raise_kindValid (c : FaultCause) : (raise c s).kindValid = s.kindValid := rfl
@[simp] theorem raise_recSamples (c : FaultCause) : (raise c s).recSamples = s.recSamples := rfl
@[simp] theorem raise_samplesValid (c : FaultCause) : (raise c s).samplesValid = s.samplesValid := rfl
@[simp] theorem raise_recStart (c : FaultCause) : (raise c s).recStart = s.recStart := rfl
@[simp] theorem raise_rem (c : FaultCause) : (raise c s).rem = s.rem := rfl
@[simp] theorem raise_inp (c : FaultCause) : (raise c s).inp = s.inp := rfl
@[simp] theorem raise_phase (c : FaultCause) : (raise c s).phase = s.phase := rfl
@[simp] theorem raise_dup (c : FaultCause) : (raise c s).dup = s.dup := rfl
@[simp] theorem raise_bufLen (c : FaultCause) : (raise c s).bufLen = s.bufLen := rfl
@[simp] theorem raise_input (c : FaultCause) : (raise c s).input = s.input := rfl
@[simp] theorem raise_cfg (c : FaultCause) : (raise c s).cfg = s.cfg := rfl
@[simp] theorem raise_recOut (c : FaultCause) : (raise c s).recOut = s.recOut := rfl
@[simp] theorem raise_freeCtr (c : FaultCause) : (raise c s).freeCtr = s.freeCtr := rfl
@[simp] theorem raise_wPs (c : FaultCause) : (raise c s).wPs = s.wPs := rfl
@[simp] theorem raise_wSi (c : FaultCause) : (raise c s).wSi = s.wSi := rfl
@[simp] theorem raise_out (c : FaultCause) : (raise c s).out = s.out := rfl
@[simp] theorem raise_ps (c : FaultCause) : (raise c s).ps = s.ps := rfl
@[simp] theorem raise_si (c : FaultCause) : (raise c s).si = s.si := rfl

/-! ### unsettle -/

@[simp] theorem unsettle_runState : (unsettle s).runState = s.runState := rfl
@[simp] theorem unsettle_seq : (unsettle s).seq = s.seq := rfl
@[simp] theorem unsettle_started : (unsettle s).started = s.started := rfl
@[simp] theorem unsettle_fault : (unsettle s).fault = s.fault := rfl
@[simp] theorem unsettle_pc : (unsettle s).pc = s.pc := rfl
@[simp] theorem unsettle_nAudio : (unsettle s).nAudio = s.nAudio := rfl
@[simp] theorem unsettle_nVideo : (unsettle s).nVideo = s.nVideo := rfl
@[simp] theorem unsettle_audioBytes : (unsettle s).audioBytes = s.audioBytes := rfl
@[simp] theorem unsettle_recIndex : (unsettle s).recIndex = s.recIndex := rfl
@[simp] theorem unsettle_hdr : (unsettle s).hdr = s.hdr := rfl
@[simp] theorem unsettle_hdrValid : (unsettle s).hdrValid = s.hdrValid := rfl
@[simp] theorem unsettle_recType : (unsettle s).recType = s.recType := rfl
@[simp] theorem unsettle_recFormat : (unsettle s).recFormat = s.recFormat := rfl
@[simp] theorem unsettle_recSize : (unsettle s).recSize = s.recSize := rfl
@[simp] theorem unsettle_recValid : (unsettle s).recValid = s.recValid := rfl
@[simp] theorem unsettle_recKind : (unsettle s).recKind = s.recKind := rfl
@[simp] theorem unsettle_winEnd : (unsettle s).winEnd = s.winEnd := rfl
@[simp] theorem unsettle_kindValid : (unsettle s).kindValid = s.kindValid := rfl
@[simp] theorem unsettle_recSamples : (unsettle s).recSamples = s.recSamples := rfl
@[simp] theorem unsettle_samplesValid : (unsettle s).samplesValid = s.samplesValid := rfl
@[simp] theorem unsettle_recStart : (unsettle s).recStart = s.recStart := rfl
@[simp] theorem unsettle_rem : (unsettle s).rem = s.rem := rfl
@[simp] theorem unsettle_inp : (unsettle s).inp = s.inp := rfl
@[simp] theorem unsettle_phase : (unsettle s).phase = s.phase := rfl
@[simp] theorem unsettle_dup : (unsettle s).dup = s.dup := rfl
@[simp] theorem unsettle_bufLen : (unsettle s).bufLen = s.bufLen := rfl
@[simp] theorem unsettle_input : (unsettle s).input = s.input := rfl
@[simp] theorem unsettle_cfg : (unsettle s).cfg = s.cfg := rfl
@[simp] theorem unsettle_recOut : (unsettle s).recOut = s.recOut := rfl
@[simp] theorem unsettle_freeCtr : (unsettle s).freeCtr = s.freeCtr + 1 := rfl
@[simp] theorem unsettle_wPs : (unsettle s).wPs = s.wPs := rfl
@[simp] theorem unsettle_wSi : (unsettle s).wSi = s.wSi := rfl
@[simp] theorem unsettle_out : (unsettle s).out = s.out.take s.recStart ++ freeTail s.freeCtr (s.out.length - s.recStart) := rfl
@[simp] theorem unsettle_ps : (unsettle s).ps = Config.freePs s.freeCtr := rfl
@[simp] theorem unsettle_si : (unsettle s).si = BitVec.ofNat 8 (Config.freeSi s.freeCtr).val := rfl

/-! ### latchRecord -/

@[simp] theorem latchRecord_runState (h : RecHeader) : (latchRecord h s).runState = s.runState := rfl
@[simp] theorem latchRecord_seq (h : RecHeader) : (latchRecord h s).seq = s.seq := rfl
@[simp] theorem latchRecord_started (h : RecHeader) : (latchRecord h s).started = s.started := rfl
@[simp] theorem latchRecord_fault (h : RecHeader) : (latchRecord h s).fault = s.fault := rfl
@[simp] theorem latchRecord_pc (h : RecHeader) : (latchRecord h s).pc = s.pc := rfl
@[simp] theorem latchRecord_nAudio (h : RecHeader) : (latchRecord h s).nAudio = s.nAudio := rfl
@[simp] theorem latchRecord_nVideo (h : RecHeader) : (latchRecord h s).nVideo = s.nVideo := rfl
@[simp] theorem latchRecord_audioBytes (h : RecHeader) : (latchRecord h s).audioBytes = s.audioBytes := rfl
@[simp] theorem latchRecord_recIndex (h : RecHeader) : (latchRecord h s).recIndex = s.recIndex := rfl
@[simp] theorem latchRecord_hdr (h : RecHeader) : (latchRecord h s).hdr = s.hdr := rfl
@[simp] theorem latchRecord_hdrValid (h : RecHeader) : (latchRecord h s).hdrValid = s.hdrValid := rfl
@[simp] theorem latchRecord_recType (h : RecHeader) : (latchRecord h s).recType = h.typ := rfl
@[simp] theorem latchRecord_recFormat (h : RecHeader) : (latchRecord h s).recFormat = h.fmt := rfl
@[simp] theorem latchRecord_recSize (h : RecHeader) : (latchRecord h s).recSize = h.size := rfl
@[simp] theorem latchRecord_recValid (h : RecHeader) : (latchRecord h s).recValid = true := rfl
@[simp] theorem latchRecord_recKind (h : RecHeader) : (latchRecord h s).recKind = s.recKind := rfl
@[simp] theorem latchRecord_winEnd (h : RecHeader) : (latchRecord h s).winEnd = s.winEnd := rfl
@[simp] theorem latchRecord_kindValid (h : RecHeader) : (latchRecord h s).kindValid = false := rfl
@[simp] theorem latchRecord_recSamples (h : RecHeader) : (latchRecord h s).recSamples = s.recSamples := rfl
@[simp] theorem latchRecord_samplesValid (h : RecHeader) : (latchRecord h s).samplesValid = false := rfl
@[simp] theorem latchRecord_recStart (h : RecHeader) : (latchRecord h s).recStart = s.out.length := rfl
@[simp] theorem latchRecord_rem (h : RecHeader) : (latchRecord h s).rem = s.rem := rfl
@[simp] theorem latchRecord_inp (h : RecHeader) : (latchRecord h s).inp = s.inp := rfl
@[simp] theorem latchRecord_phase (h : RecHeader) : (latchRecord h s).phase = s.phase := rfl
@[simp] theorem latchRecord_dup (h : RecHeader) : (latchRecord h s).dup = s.dup := rfl
@[simp] theorem latchRecord_bufLen (h : RecHeader) : (latchRecord h s).bufLen = s.bufLen := rfl
@[simp] theorem latchRecord_input (h : RecHeader) : (latchRecord h s).input = s.input := rfl
@[simp] theorem latchRecord_cfg (h : RecHeader) : (latchRecord h s).cfg = s.cfg := rfl
@[simp] theorem latchRecord_recOut (h : RecHeader) : (latchRecord h s).recOut = s.recOut := rfl
@[simp] theorem latchRecord_freeCtr (h : RecHeader) : (latchRecord h s).freeCtr = s.freeCtr := rfl
@[simp] theorem latchRecord_wPs (h : RecHeader) : (latchRecord h s).wPs = s.wPs := rfl
@[simp] theorem latchRecord_wSi (h : RecHeader) : (latchRecord h s).wSi = s.wSi := rfl
@[simp] theorem latchRecord_out (h : RecHeader) : (latchRecord h s).out = s.out := rfl
@[simp] theorem latchRecord_ps (h : RecHeader) : (latchRecord h s).ps = s.ps := rfl
@[simp] theorem latchRecord_si (h : RecHeader) : (latchRecord h s).si = s.si := rfl

/-! ### dropRecord -/

@[simp] theorem dropRecord_runState : (dropRecord s).runState = s.runState := rfl
@[simp] theorem dropRecord_seq : (dropRecord s).seq = s.seq := rfl
@[simp] theorem dropRecord_started : (dropRecord s).started = s.started := rfl
@[simp] theorem dropRecord_fault : (dropRecord s).fault = s.fault := rfl
@[simp] theorem dropRecord_pc : (dropRecord s).pc = s.pc := rfl
@[simp] theorem dropRecord_nAudio : (dropRecord s).nAudio = s.nAudio := rfl
@[simp] theorem dropRecord_nVideo : (dropRecord s).nVideo = s.nVideo := rfl
@[simp] theorem dropRecord_audioBytes : (dropRecord s).audioBytes = s.audioBytes := rfl
@[simp] theorem dropRecord_recIndex : (dropRecord s).recIndex = s.recIndex := rfl
@[simp] theorem dropRecord_hdr : (dropRecord s).hdr = s.hdr := rfl
@[simp] theorem dropRecord_hdrValid : (dropRecord s).hdrValid = s.hdrValid := rfl
@[simp] theorem dropRecord_recType : (dropRecord s).recType = s.recType := rfl
@[simp] theorem dropRecord_recFormat : (dropRecord s).recFormat = s.recFormat := rfl
@[simp] theorem dropRecord_recSize : (dropRecord s).recSize = s.recSize := rfl
@[simp] theorem dropRecord_recValid : (dropRecord s).recValid = false := rfl
@[simp] theorem dropRecord_recKind : (dropRecord s).recKind = s.recKind := rfl
@[simp] theorem dropRecord_winEnd : (dropRecord s).winEnd = s.winEnd := rfl
@[simp] theorem dropRecord_kindValid : (dropRecord s).kindValid = false := rfl
@[simp] theorem dropRecord_recSamples : (dropRecord s).recSamples = s.recSamples := rfl
@[simp] theorem dropRecord_samplesValid : (dropRecord s).samplesValid = false := rfl
@[simp] theorem dropRecord_recStart : (dropRecord s).recStart = s.recStart := rfl
@[simp] theorem dropRecord_rem : (dropRecord s).rem = s.rem := rfl
@[simp] theorem dropRecord_inp : (dropRecord s).inp = s.inp := rfl
@[simp] theorem dropRecord_phase : (dropRecord s).phase = s.phase := rfl
@[simp] theorem dropRecord_dup : (dropRecord s).dup = s.dup := rfl
@[simp] theorem dropRecord_bufLen : (dropRecord s).bufLen = s.bufLen := rfl
@[simp] theorem dropRecord_input : (dropRecord s).input = s.input := rfl
@[simp] theorem dropRecord_cfg : (dropRecord s).cfg = s.cfg := rfl
@[simp] theorem dropRecord_recOut : (dropRecord s).recOut = s.recOut := rfl
@[simp] theorem dropRecord_freeCtr : (dropRecord s).freeCtr = s.freeCtr := rfl
@[simp] theorem dropRecord_wPs : (dropRecord s).wPs = s.wPs := rfl
@[simp] theorem dropRecord_wSi : (dropRecord s).wSi = s.wSi := rfl
@[simp] theorem dropRecord_out : (dropRecord s).out = s.out := rfl
@[simp] theorem dropRecord_ps : (dropRecord s).ps = s.ps := rfl
@[simp] theorem dropRecord_si : (dropRecord s).si = s.si := rfl

/-! ### enterRecord -/

@[simp] theorem enterRecord_runState (k : RecKind) (z : Word32) : (enterRecord k z s).runState = s.runState := rfl
@[simp] theorem enterRecord_seq (k : RecKind) (z : Word32) : (enterRecord k z s).seq = s.seq := rfl
@[simp] theorem enterRecord_started (k : RecKind) (z : Word32) : (enterRecord k z s).started = s.started := rfl
@[simp] theorem enterRecord_fault (k : RecKind) (z : Word32) : (enterRecord k z s).fault = s.fault := rfl
@[simp] theorem enterRecord_pc (k : RecKind) (z : Word32) : (enterRecord k z s).pc = s.pc := rfl
@[simp] theorem enterRecord_nAudio (k : RecKind) (z : Word32) : (enterRecord k z s).nAudio = s.nAudio := rfl
@[simp] theorem enterRecord_nVideo (k : RecKind) (z : Word32) : (enterRecord k z s).nVideo = s.nVideo := rfl
@[simp] theorem enterRecord_audioBytes (k : RecKind) (z : Word32) : (enterRecord k z s).audioBytes = s.audioBytes := rfl
@[simp] theorem enterRecord_recIndex (k : RecKind) (z : Word32) : (enterRecord k z s).recIndex = s.recIndex := rfl
@[simp] theorem enterRecord_hdr (k : RecKind) (z : Word32) : (enterRecord k z s).hdr = s.hdr := rfl
@[simp] theorem enterRecord_hdrValid (k : RecKind) (z : Word32) : (enterRecord k z s).hdrValid = s.hdrValid := rfl
@[simp] theorem enterRecord_recType (k : RecKind) (z : Word32) : (enterRecord k z s).recType = (kindHeader s.cfg k z).typ := rfl
@[simp] theorem enterRecord_recFormat (k : RecKind) (z : Word32) : (enterRecord k z s).recFormat = (kindHeader s.cfg k z).fmt := rfl
@[simp] theorem enterRecord_recSize (k : RecKind) (z : Word32) : (enterRecord k z s).recSize = (kindHeader s.cfg k z).size := rfl
@[simp] theorem enterRecord_recValid (k : RecKind) (z : Word32) : (enterRecord k z s).recValid = true := rfl
@[simp] theorem enterRecord_recKind (k : RecKind) (z : Word32) : (enterRecord k z s).recKind = k := rfl
@[simp] theorem enterRecord_winEnd (k : RecKind) (z : Word32) : (enterRecord k z s).winEnd = s.pc + recHdrSize + z.toNat := rfl
@[simp] theorem enterRecord_kindValid (k : RecKind) (z : Word32) : (enterRecord k z s).kindValid = true := rfl
@[simp] theorem enterRecord_recSamples (k : RecKind) (z : Word32) : (enterRecord k z s).recSamples = s.recSamples := rfl
@[simp] theorem enterRecord_samplesValid (k : RecKind) (z : Word32) : (enterRecord k z s).samplesValid = false := rfl
@[simp] theorem enterRecord_recStart (k : RecKind) (z : Word32) : (enterRecord k z s).recStart = s.out.length := rfl
@[simp] theorem enterRecord_rem (k : RecKind) (z : Word32) : (enterRecord k z s).rem = s.rem := rfl
@[simp] theorem enterRecord_inp (k : RecKind) (z : Word32) : (enterRecord k z s).inp = s.inp := rfl
@[simp] theorem enterRecord_phase (k : RecKind) (z : Word32) : (enterRecord k z s).phase = s.phase := rfl
@[simp] theorem enterRecord_dup (k : RecKind) (z : Word32) : (enterRecord k z s).dup = s.dup := rfl
@[simp] theorem enterRecord_bufLen (k : RecKind) (z : Word32) : (enterRecord k z s).bufLen = s.bufLen := rfl
@[simp] theorem enterRecord_input (k : RecKind) (z : Word32) : (enterRecord k z s).input = s.input := rfl
@[simp] theorem enterRecord_cfg (k : RecKind) (z : Word32) : (enterRecord k z s).cfg = s.cfg := rfl
@[simp] theorem enterRecord_recOut (k : RecKind) (z : Word32) : (enterRecord k z s).recOut = s.recOut := rfl
@[simp] theorem enterRecord_freeCtr (k : RecKind) (z : Word32) : (enterRecord k z s).freeCtr = s.freeCtr := rfl
@[simp] theorem enterRecord_wPs (k : RecKind) (z : Word32) : (enterRecord k z s).wPs = s.wPs := rfl
@[simp] theorem enterRecord_wSi (k : RecKind) (z : Word32) : (enterRecord k z s).wSi = s.wSi := rfl
@[simp] theorem enterRecord_out (k : RecKind) (z : Word32) : (enterRecord k z s).out = s.out := rfl
@[simp] theorem enterRecord_ps (k : RecKind) (z : Word32) : (enterRecord k z s).ps = s.ps := rfl
@[simp] theorem enterRecord_si (k : RecKind) (z : Word32) : (enterRecord k z s).si = s.si := rfl

/-! ### setupDecode -/

@[simp] theorem setupDecode_runState : (setupDecode s).runState = s.runState := rfl
@[simp] theorem setupDecode_seq : (setupDecode s).seq = .decode := rfl
@[simp] theorem setupDecode_started : (setupDecode s).started = s.started := rfl
@[simp] theorem setupDecode_fault : (setupDecode s).fault = s.fault := rfl
@[simp] theorem setupDecode_pc : (setupDecode s).pc = s.pc := rfl
@[simp] theorem setupDecode_nAudio : (setupDecode s).nAudio = s.nAudio := rfl
@[simp] theorem setupDecode_nVideo : (setupDecode s).nVideo = s.nVideo := rfl
@[simp] theorem setupDecode_audioBytes : (setupDecode s).audioBytes = s.audioBytes := rfl
@[simp] theorem setupDecode_recIndex : (setupDecode s).recIndex = s.recIndex := rfl
@[simp] theorem setupDecode_hdr : (setupDecode s).hdr = s.hdr := rfl
@[simp] theorem setupDecode_hdrValid : (setupDecode s).hdrValid = s.hdrValid := rfl
@[simp] theorem setupDecode_recType : (setupDecode s).recType = s.recType := rfl
@[simp] theorem setupDecode_recFormat : (setupDecode s).recFormat = s.recFormat := rfl
@[simp] theorem setupDecode_recSize : (setupDecode s).recSize = s.recSize := rfl
@[simp] theorem setupDecode_recValid : (setupDecode s).recValid = s.recValid := rfl
@[simp] theorem setupDecode_recKind : (setupDecode s).recKind = s.recKind := rfl
@[simp] theorem setupDecode_winEnd : (setupDecode s).winEnd = s.winEnd := rfl
@[simp] theorem setupDecode_kindValid : (setupDecode s).kindValid = s.kindValid := rfl
@[simp] theorem setupDecode_recSamples : (setupDecode s).recSamples = s.recSamples := rfl
@[simp] theorem setupDecode_samplesValid : (setupDecode s).samplesValid = s.samplesValid := rfl
@[simp] theorem setupDecode_recStart : (setupDecode s).recStart = s.recStart := rfl
@[simp] theorem setupDecode_rem : (setupDecode s).rem = s.recSamples.toNat := rfl
@[simp] theorem setupDecode_inp : (setupDecode s).inp = s.pc + recHdrSize + audioSubHdrSize := rfl
@[simp] theorem setupDecode_phase : (setupDecode s).phase = .high := rfl
@[simp] theorem setupDecode_dup : (setupDecode s).dup = s.dup := rfl
@[simp] theorem setupDecode_bufLen : (setupDecode s).bufLen = s.bufLen := rfl
@[simp] theorem setupDecode_input : (setupDecode s).input = s.input := rfl
@[simp] theorem setupDecode_cfg : (setupDecode s).cfg = s.cfg := rfl
@[simp] theorem setupDecode_recOut : (setupDecode s).recOut = s.recOut := rfl
@[simp] theorem setupDecode_freeCtr : (setupDecode s).freeCtr = s.freeCtr := rfl
@[simp] theorem setupDecode_wPs : (setupDecode s).wPs = s.wPs := rfl
@[simp] theorem setupDecode_wSi : (setupDecode s).wSi = s.wSi := rfl
@[simp] theorem setupDecode_out : (setupDecode s).out = s.out := rfl
@[simp] theorem setupDecode_ps : (setupDecode s).ps = s.ps := rfl
@[simp] theorem setupDecode_si : (setupDecode s).si = s.si := rfl

/-! ### continueStep -/

@[simp] theorem continueStep_runState : (continueStep s).runState = s.runState := rfl
@[simp] theorem continueStep_seq : (continueStep s).seq = s.seq := rfl
@[simp] theorem continueStep_started : (continueStep s).started = s.started := rfl
@[simp] theorem continueStep_fault : (continueStep s).fault = s.fault := rfl
@[simp] theorem continueStep_pc : (continueStep s).pc = s.pc := rfl
@[simp] theorem continueStep_nAudio : (continueStep s).nAudio = s.nAudio := rfl
@[simp] theorem continueStep_nVideo : (continueStep s).nVideo = s.nVideo := rfl
@[simp] theorem continueStep_audioBytes : (continueStep s).audioBytes = s.audioBytes := rfl
@[simp] theorem continueStep_recIndex : (continueStep s).recIndex = s.recIndex := rfl
@[simp] theorem continueStep_hdr : (continueStep s).hdr = s.hdr := rfl
@[simp] theorem continueStep_hdrValid : (continueStep s).hdrValid = s.hdrValid := rfl
@[simp] theorem continueStep_recType : (continueStep s).recType = s.recType := rfl
@[simp] theorem continueStep_recFormat : (continueStep s).recFormat = s.recFormat := rfl
@[simp] theorem continueStep_recSize : (continueStep s).recSize = s.recSize := rfl
@[simp] theorem continueStep_recValid : (continueStep s).recValid = s.recValid := rfl
@[simp] theorem continueStep_recKind : (continueStep s).recKind = s.recKind := rfl
@[simp] theorem continueStep_winEnd : (continueStep s).winEnd = s.winEnd := rfl
@[simp] theorem continueStep_kindValid : (continueStep s).kindValid = s.kindValid := rfl
@[simp] theorem continueStep_recSamples : (continueStep s).recSamples = s.recSamples := rfl
@[simp] theorem continueStep_samplesValid : (continueStep s).samplesValid = s.samplesValid := rfl
@[simp] theorem continueStep_recStart : (continueStep s).recStart = s.recStart := rfl
@[simp] theorem continueStep_rem : (continueStep s).rem = s.rem := rfl
@[simp] theorem continueStep_inp : (continueStep s).inp = s.inp := rfl
@[simp] theorem continueStep_phase : (continueStep s).phase = s.phase := rfl
@[simp] theorem continueStep_dup : (continueStep s).dup = s.dup := rfl
@[simp] theorem continueStep_bufLen : (continueStep s).bufLen = s.bufLen := rfl
@[simp] theorem continueStep_input : (continueStep s).input = s.input := rfl
@[simp] theorem continueStep_cfg : (continueStep s).cfg = s.cfg := rfl
@[simp] theorem continueStep_recOut : (continueStep s).recOut = s.recOut := rfl
@[simp] theorem continueStep_freeCtr : (continueStep s).freeCtr = s.freeCtr := rfl
@[simp] theorem continueStep_wPs : (continueStep s).wPs = s.ps := rfl
@[simp] theorem continueStep_wSi : (continueStep s).wSi = s.si := rfl
@[simp] theorem continueStep_out : (continueStep s).out = s.out := rfl
@[simp] theorem continueStep_ps : (continueStep s).ps = s.ps := rfl
@[simp] theorem continueStep_si : (continueStep s).si = s.si := rfl

/-! ### commit -/

@[simp] theorem commit_runState : (commit s).runState = s.runState := rfl
@[simp] theorem commit_seq : (commit s).seq = s.seq := rfl
@[simp] theorem commit_started : (commit s).started = s.started := rfl
@[simp] theorem commit_fault : (commit s).fault = s.fault := rfl
@[simp] theorem commit_pc : (commit s).pc = s.pc := rfl
@[simp] theorem commit_nAudio : (commit s).nAudio = s.nAudio := rfl
@[simp] theorem commit_nVideo : (commit s).nVideo = s.nVideo := rfl
@[simp] theorem commit_audioBytes : (commit s).audioBytes = s.audioBytes := rfl
@[simp] theorem commit_recIndex : (commit s).recIndex = s.recIndex := rfl
@[simp] theorem commit_hdr : (commit s).hdr = s.hdr := rfl
@[simp] theorem commit_hdrValid : (commit s).hdrValid = s.hdrValid := rfl
@[simp] theorem commit_recType : (commit s).recType = s.recType := rfl
@[simp] theorem commit_recFormat : (commit s).recFormat = s.recFormat := rfl
@[simp] theorem commit_recSize : (commit s).recSize = s.recSize := rfl
@[simp] theorem commit_recValid : (commit s).recValid = s.recValid := rfl
@[simp] theorem commit_recKind : (commit s).recKind = s.recKind := rfl
@[simp] theorem commit_winEnd : (commit s).winEnd = s.winEnd := rfl
@[simp] theorem commit_kindValid : (commit s).kindValid = s.kindValid := rfl
@[simp] theorem commit_recSamples : (commit s).recSamples = s.recSamples := rfl
@[simp] theorem commit_samplesValid : (commit s).samplesValid = s.samplesValid := rfl
@[simp] theorem commit_recStart : (commit s).recStart = s.recStart := rfl
@[simp] theorem commit_rem : (commit s).rem = s.rem := rfl
@[simp] theorem commit_inp : (commit s).inp = s.inp := rfl
@[simp] theorem commit_phase : (commit s).phase = s.phase := rfl
@[simp] theorem commit_dup : (commit s).dup = s.dup := rfl
@[simp] theorem commit_bufLen : (commit s).bufLen = s.bufLen := rfl
@[simp] theorem commit_input : (commit s).input = s.input := rfl
@[simp] theorem commit_cfg : (commit s).cfg = s.cfg := rfl
@[simp] theorem commit_recOut : (commit s).recOut = s.recOut := rfl
@[simp] theorem commit_freeCtr : (commit s).freeCtr = s.freeCtr := rfl
@[simp] theorem commit_wPs : (commit s).wPs = s.wPs := rfl
@[simp] theorem commit_wSi : (commit s).wSi = s.wSi := rfl
@[simp] theorem commit_out : (commit s).out = s.out := rfl
@[simp] theorem commit_ps : (commit s).ps = s.wPs := rfl
@[simp] theorem commit_si : (commit s).si = s.wSi := rfl

/-! ### countSample -/

@[simp] theorem countSample_runState : (countSample s).runState = s.runState := rfl
@[simp] theorem countSample_seq : (countSample s).seq = s.seq := rfl
@[simp] theorem countSample_started : (countSample s).started = s.started := rfl
@[simp] theorem countSample_fault : (countSample s).fault = s.fault := rfl
@[simp] theorem countSample_pc : (countSample s).pc = s.pc := rfl
@[simp] theorem countSample_nAudio : (countSample s).nAudio = s.nAudio := rfl
@[simp] theorem countSample_nVideo : (countSample s).nVideo = s.nVideo := rfl
@[simp] theorem countSample_audioBytes : (countSample s).audioBytes = s.audioBytes := rfl
@[simp] theorem countSample_recIndex : (countSample s).recIndex = s.recIndex := rfl
@[simp] theorem countSample_hdr : (countSample s).hdr = s.hdr := rfl
@[simp] theorem countSample_hdrValid : (countSample s).hdrValid = s.hdrValid := rfl
@[simp] theorem countSample_recType : (countSample s).recType = s.recType := rfl
@[simp] theorem countSample_recFormat : (countSample s).recFormat = s.recFormat := rfl
@[simp] theorem countSample_recSize : (countSample s).recSize = s.recSize := rfl
@[simp] theorem countSample_recValid : (countSample s).recValid = s.recValid := rfl
@[simp] theorem countSample_recKind : (countSample s).recKind = s.recKind := rfl
@[simp] theorem countSample_winEnd : (countSample s).winEnd = s.winEnd := rfl
@[simp] theorem countSample_kindValid : (countSample s).kindValid = s.kindValid := rfl
@[simp] theorem countSample_recSamples : (countSample s).recSamples = s.recSamples := rfl
@[simp] theorem countSample_samplesValid : (countSample s).samplesValid = s.samplesValid := rfl
@[simp] theorem countSample_recStart : (countSample s).recStart = s.recStart := rfl
@[simp] theorem countSample_rem : (countSample s).rem = s.rem - 1 := rfl
@[simp] theorem countSample_inp : (countSample s).inp = s.inp := rfl
@[simp] theorem countSample_phase : (countSample s).phase = s.phase := rfl
@[simp] theorem countSample_dup : (countSample s).dup = s.dup := rfl
@[simp] theorem countSample_bufLen : (countSample s).bufLen = s.bufLen := rfl
@[simp] theorem countSample_input : (countSample s).input = s.input := rfl
@[simp] theorem countSample_cfg : (countSample s).cfg = s.cfg := rfl
@[simp] theorem countSample_recOut : (countSample s).recOut = s.recOut := rfl
@[simp] theorem countSample_freeCtr : (countSample s).freeCtr = s.freeCtr := rfl
@[simp] theorem countSample_wPs : (countSample s).wPs = s.wPs := rfl
@[simp] theorem countSample_wSi : (countSample s).wSi = s.wSi := rfl
@[simp] theorem countSample_out : (countSample s).out = s.out := rfl
@[simp] theorem countSample_ps : (countSample s).ps = s.ps := rfl
@[simp] theorem countSample_si : (countSample s).si = s.si := rfl

/-! ### latchHeader -/

@[simp] theorem latchHeader_runState (h : Header) : (latchHeader h s).runState = s.runState := rfl
@[simp] theorem latchHeader_seq (h : Header) : (latchHeader h s).seq = s.seq := rfl
@[simp] theorem latchHeader_started (h : Header) : (latchHeader h s).started = s.started := rfl
@[simp] theorem latchHeader_fault (h : Header) : (latchHeader h s).fault = s.fault := rfl
@[simp] theorem latchHeader_pc (h : Header) : (latchHeader h s).pc = s.pc := rfl
@[simp] theorem latchHeader_nAudio (h : Header) : (latchHeader h s).nAudio = s.nAudio := rfl
@[simp] theorem latchHeader_nVideo (h : Header) : (latchHeader h s).nVideo = s.nVideo := rfl
@[simp] theorem latchHeader_audioBytes (h : Header) : (latchHeader h s).audioBytes = s.audioBytes := rfl
@[simp] theorem latchHeader_recIndex (h : Header) : (latchHeader h s).recIndex = s.recIndex := rfl
@[simp] theorem latchHeader_hdr (h : Header) : (latchHeader h s).hdr = h := rfl
@[simp] theorem latchHeader_hdrValid (h : Header) : (latchHeader h s).hdrValid = true := rfl
@[simp] theorem latchHeader_recType (h : Header) : (latchHeader h s).recType = s.recType := rfl
@[simp] theorem latchHeader_recFormat (h : Header) : (latchHeader h s).recFormat = s.recFormat := rfl
@[simp] theorem latchHeader_recSize (h : Header) : (latchHeader h s).recSize = s.recSize := rfl
@[simp] theorem latchHeader_recValid (h : Header) : (latchHeader h s).recValid = s.recValid := rfl
@[simp] theorem latchHeader_recKind (h : Header) : (latchHeader h s).recKind = s.recKind := rfl
@[simp] theorem latchHeader_winEnd (h : Header) : (latchHeader h s).winEnd = s.winEnd := rfl
@[simp] theorem latchHeader_kindValid (h : Header) : (latchHeader h s).kindValid = s.kindValid := rfl
@[simp] theorem latchHeader_recSamples (h : Header) : (latchHeader h s).recSamples = s.recSamples := rfl
@[simp] theorem latchHeader_samplesValid (h : Header) : (latchHeader h s).samplesValid = s.samplesValid := rfl
@[simp] theorem latchHeader_recStart (h : Header) : (latchHeader h s).recStart = s.recStart := rfl
@[simp] theorem latchHeader_rem (h : Header) : (latchHeader h s).rem = s.rem := rfl
@[simp] theorem latchHeader_inp (h : Header) : (latchHeader h s).inp = s.inp := rfl
@[simp] theorem latchHeader_phase (h : Header) : (latchHeader h s).phase = s.phase := rfl
@[simp] theorem latchHeader_dup (h : Header) : (latchHeader h s).dup = s.dup := rfl
@[simp] theorem latchHeader_bufLen (h : Header) : (latchHeader h s).bufLen = s.bufLen := rfl
@[simp] theorem latchHeader_input (h : Header) : (latchHeader h s).input = s.input := rfl
@[simp] theorem latchHeader_cfg (h : Header) : (latchHeader h s).cfg = s.cfg := rfl
@[simp] theorem latchHeader_recOut (h : Header) : (latchHeader h s).recOut = s.recOut := rfl
@[simp] theorem latchHeader_freeCtr (h : Header) : (latchHeader h s).freeCtr = s.freeCtr := rfl
@[simp] theorem latchHeader_wPs (h : Header) : (latchHeader h s).wPs = s.wPs := rfl
@[simp] theorem latchHeader_wSi (h : Header) : (latchHeader h s).wSi = s.wSi := rfl
@[simp] theorem latchHeader_out (h : Header) : (latchHeader h s).out = s.out := rfl
@[simp] theorem latchHeader_ps (h : Header) : (latchHeader h s).ps = s.ps := rfl
@[simp] theorem latchHeader_si (h : Header) : (latchHeader h s).si = s.si := rfl

/-! ### raiseAudio, finishAudio, retire -/

@[simp] theorem raiseAudio_runState (c : FaultCause) : (raiseAudio c s).runState = .fault := rfl
@[simp] theorem raiseAudio_seq (c : FaultCause) : (raiseAudio c s).seq = (unsettle s).seq := rfl
@[simp] theorem raiseAudio_started (c : FaultCause) : (raiseAudio c s).started = (unsettle s).started := rfl
@[simp] theorem raiseAudio_fault (c : FaultCause) : (raiseAudio c s).fault = some ⟨c, s.recIndex, s.pc⟩ := rfl
@[simp] theorem raiseAudio_pc (c : FaultCause) : (raiseAudio c s).pc = (unsettle s).pc := rfl
@[simp] theorem raiseAudio_nAudio (c : FaultCause) : (raiseAudio c s).nAudio = (unsettle s).nAudio := rfl
@[simp] theorem raiseAudio_nVideo (c : FaultCause) : (raiseAudio c s).nVideo = (unsettle s).nVideo := rfl
@[simp] theorem raiseAudio_audioBytes (c : FaultCause) : (raiseAudio c s).audioBytes = (unsettle s).audioBytes := rfl
@[simp] theorem raiseAudio_recIndex (c : FaultCause) : (raiseAudio c s).recIndex = (unsettle s).recIndex := rfl
@[simp] theorem raiseAudio_hdr (c : FaultCause) : (raiseAudio c s).hdr = (unsettle s).hdr := rfl
@[simp] theorem raiseAudio_hdrValid (c : FaultCause) : (raiseAudio c s).hdrValid = (unsettle s).hdrValid := rfl
@[simp] theorem raiseAudio_recType (c : FaultCause) : (raiseAudio c s).recType = (unsettle s).recType := rfl
@[simp] theorem raiseAudio_recFormat (c : FaultCause) : (raiseAudio c s).recFormat = (unsettle s).recFormat := rfl
@[simp] theorem raiseAudio_recSize (c : FaultCause) : (raiseAudio c s).recSize = (unsettle s).recSize := rfl
@[simp] theorem raiseAudio_recValid (c : FaultCause) : (raiseAudio c s).recValid = (unsettle s).recValid := rfl
@[simp] theorem raiseAudio_recKind (c : FaultCause) : (raiseAudio c s).recKind = (unsettle s).recKind := rfl
@[simp] theorem raiseAudio_winEnd (c : FaultCause) : (raiseAudio c s).winEnd = (unsettle s).winEnd := rfl
@[simp] theorem raiseAudio_kindValid (c : FaultCause) : (raiseAudio c s).kindValid = (unsettle s).kindValid := rfl
@[simp] theorem raiseAudio_recSamples (c : FaultCause) : (raiseAudio c s).recSamples = (unsettle s).recSamples := rfl
@[simp] theorem raiseAudio_samplesValid (c : FaultCause) : (raiseAudio c s).samplesValid = (unsettle s).samplesValid := rfl
@[simp] theorem raiseAudio_recStart (c : FaultCause) : (raiseAudio c s).recStart = (unsettle s).recStart := rfl
@[simp] theorem raiseAudio_rem (c : FaultCause) : (raiseAudio c s).rem = (unsettle s).rem := rfl
@[simp] theorem raiseAudio_inp (c : FaultCause) : (raiseAudio c s).inp = (unsettle s).inp := rfl
@[simp] theorem raiseAudio_phase (c : FaultCause) : (raiseAudio c s).phase = (unsettle s).phase := rfl
@[simp] theorem raiseAudio_dup (c : FaultCause) : (raiseAudio c s).dup = (unsettle s).dup := rfl
@[simp] theorem raiseAudio_bufLen (c : FaultCause) : (raiseAudio c s).bufLen = (unsettle s).bufLen := rfl
@[simp] theorem raiseAudio_input (c : FaultCause) : (raiseAudio c s).input = (unsettle s).input := rfl
@[simp] theorem raiseAudio_cfg (c : FaultCause) : (raiseAudio c s).cfg = (unsettle s).cfg := rfl
@[simp] theorem raiseAudio_recOut (c : FaultCause) : (raiseAudio c s).recOut = (unsettle s).recOut := rfl
@[simp] theorem raiseAudio_freeCtr (c : FaultCause) : (raiseAudio c s).freeCtr = (unsettle s).freeCtr := rfl
@[simp] theorem raiseAudio_wPs (c : FaultCause) : (raiseAudio c s).wPs = (unsettle s).wPs := rfl
@[simp] theorem raiseAudio_wSi (c : FaultCause) : (raiseAudio c s).wSi = (unsettle s).wSi := rfl
@[simp] theorem raiseAudio_out (c : FaultCause) : (raiseAudio c s).out = (unsettle s).out := rfl
@[simp] theorem raiseAudio_ps (c : FaultCause) : (raiseAudio c s).ps = (unsettle s).ps := rfl
@[simp] theorem raiseAudio_si (c : FaultCause) : (raiseAudio c s).si = (unsettle s).si := rfl

/-! ### advanceNibble -/

@[simp] theorem advanceNibble_runState : (advanceNibble s).runState = s.runState := by
  unfold advanceNibble; split <;> rfl
@[simp] theorem advanceNibble_seq : (advanceNibble s).seq = s.seq := by
  unfold advanceNibble; split <;> rfl
@[simp] theorem advanceNibble_started : (advanceNibble s).started = s.started := by
  unfold advanceNibble; split <;> rfl
@[simp] theorem advanceNibble_fault : (advanceNibble s).fault = s.fault := by
  unfold advanceNibble; split <;> rfl
@[simp] theorem advanceNibble_pc : (advanceNibble s).pc = s.pc := by
  unfold advanceNibble; split <;> rfl
@[simp] theorem advanceNibble_nAudio : (advanceNibble s).nAudio = s.nAudio := by
  unfold advanceNibble; split <;> rfl
@[simp] theorem advanceNibble_nVideo : (advanceNibble s).nVideo = s.nVideo := by
  unfold advanceNibble; split <;> rfl
@[simp] theorem advanceNibble_audioBytes : (advanceNibble s).audioBytes = s.audioBytes := by
  unfold advanceNibble; split <;> rfl
@[simp] theorem advanceNibble_recIndex : (advanceNibble s).recIndex = s.recIndex := by
  unfold advanceNibble; split <;> rfl
@[simp] theorem advanceNibble_hdr : (advanceNibble s).hdr = s.hdr := by
  unfold advanceNibble; split <;> rfl
@[simp] theorem advanceNibble_hdrValid : (advanceNibble s).hdrValid = s.hdrValid := by
  unfold advanceNibble; split <;> rfl
@[simp] theorem advanceNibble_recType : (advanceNibble s).recType = s.recType := by
  unfold advanceNibble; split <;> rfl
@[simp] theorem advanceNibble_recFormat : (advanceNibble s).recFormat = s.recFormat := by
  unfold advanceNibble; split <;> rfl
@[simp] theorem advanceNibble_recSize : (advanceNibble s).recSize = s.recSize := by
  unfold advanceNibble; split <;> rfl
@[simp] theorem advanceNibble_recValid : (advanceNibble s).recValid = s.recValid := by
  unfold advanceNibble; split <;> rfl
@[simp] theorem advanceNibble_recKind : (advanceNibble s).recKind = s.recKind := by
  unfold advanceNibble; split <;> rfl
@[simp] theorem advanceNibble_winEnd : (advanceNibble s).winEnd = s.winEnd := by
  unfold advanceNibble; split <;> rfl
@[simp] theorem advanceNibble_kindValid : (advanceNibble s).kindValid = s.kindValid := by
  unfold advanceNibble; split <;> rfl
@[simp] theorem advanceNibble_recSamples : (advanceNibble s).recSamples = s.recSamples := by
  unfold advanceNibble; split <;> rfl
@[simp] theorem advanceNibble_samplesValid : (advanceNibble s).samplesValid = s.samplesValid := by
  unfold advanceNibble; split <;> rfl
@[simp] theorem advanceNibble_recStart : (advanceNibble s).recStart = s.recStart := by
  unfold advanceNibble; split <;> rfl
@[simp] theorem advanceNibble_rem : (advanceNibble s).rem = s.rem := by
  unfold advanceNibble; split <;> rfl
theorem advanceNibble_inp_high (h : s.phase = .high) : (advanceNibble s).inp = s.inp := by
  simp [advanceNibble, h]
theorem advanceNibble_inp_low (h : s.phase = .low) : (advanceNibble s).inp = s.inp + 1 := by
  simp [advanceNibble, h]
theorem advanceNibble_phase_high (h : s.phase = .high) : (advanceNibble s).phase = .low := by
  simp [advanceNibble, h]
theorem advanceNibble_phase_low (h : s.phase = .low) : (advanceNibble s).phase = .high := by
  simp [advanceNibble, h]
@[simp] theorem advanceNibble_dup : (advanceNibble s).dup = s.dup := by
  unfold advanceNibble; split <;> rfl
@[simp] theorem advanceNibble_bufLen : (advanceNibble s).bufLen = s.bufLen := by
  unfold advanceNibble; split <;> rfl
@[simp] theorem advanceNibble_input : (advanceNibble s).input = s.input := by
  unfold advanceNibble; split <;> rfl
@[simp] theorem advanceNibble_cfg : (advanceNibble s).cfg = s.cfg := by
  unfold advanceNibble; split <;> rfl
@[simp] theorem advanceNibble_recOut : (advanceNibble s).recOut = s.recOut := by
  unfold advanceNibble; split <;> rfl
@[simp] theorem advanceNibble_freeCtr : (advanceNibble s).freeCtr = s.freeCtr := by
  unfold advanceNibble; split <;> rfl
@[simp] theorem advanceNibble_wPs : (advanceNibble s).wPs = s.wPs := by
  unfold advanceNibble; split <;> rfl
@[simp] theorem advanceNibble_wSi : (advanceNibble s).wSi = s.wSi := by
  unfold advanceNibble; split <;> rfl
@[simp] theorem advanceNibble_out : (advanceNibble s).out = s.out := by
  unfold advanceNibble; split <;> rfl
@[simp] theorem advanceNibble_ps : (advanceNibble s).ps = s.ps := by
  unfold advanceNibble; split <;> rfl
@[simp] theorem advanceNibble_si : (advanceNibble s).si = s.si := by
  unfold advanceNibble; split <;> rfl

/-! ### complete -/

@[simp] theorem complete_runState : (complete s).runState = s.runState := by
  unfold complete; split <;> rfl
@[simp] theorem complete_seq : (complete s).seq = .fetch := by
  unfold complete; split <;> rfl
@[simp] theorem complete_started : (complete s).started = s.started := by
  unfold complete; split <;> rfl
@[simp] theorem complete_fault : (complete s).fault = s.fault := by
  unfold complete; split <;> rfl
@[simp] theorem complete_pc : (complete s).pc = s.winEnd := by
  unfold complete; split <;> rfl
@[simp] theorem complete_nAudio :
    (complete s).nAudio = (if isAudio s.recKind then s.nAudio + 1 else s.nAudio) := by
  unfold complete; split <;> rfl
@[simp] theorem complete_nVideo :
    (complete s).nVideo = (if isAudio s.recKind then s.nVideo else s.nVideo + 1) := by
  unfold complete; split <;> rfl
@[simp] theorem complete_audioBytes :
    (complete s).audioBytes = (if isAudio s.recKind then s.audioBytes + s.recSize.toNat else s.audioBytes) := by
  unfold complete; split <;> rfl
@[simp] theorem complete_recIndex : (complete s).recIndex = s.recIndex + 1 := by
  unfold complete; split <;> rfl
@[simp] theorem complete_hdr : (complete s).hdr = s.hdr := by
  unfold complete; split <;> rfl
@[simp] theorem complete_hdrValid : (complete s).hdrValid = s.hdrValid := by
  unfold complete; split <;> rfl
@[simp] theorem complete_recType : (complete s).recType = s.recType := by
  unfold complete; split <;> rfl
@[simp] theorem complete_recFormat : (complete s).recFormat = s.recFormat := by
  unfold complete; split <;> rfl
@[simp] theorem complete_recSize : (complete s).recSize = s.recSize := by
  unfold complete; split <;> rfl
@[simp] theorem complete_recValid : (complete s).recValid = s.recValid := by
  unfold complete; split <;> rfl
@[simp] theorem complete_recKind : (complete s).recKind = s.recKind := by
  unfold complete; split <;> rfl
@[simp] theorem complete_winEnd : (complete s).winEnd = s.winEnd := by
  unfold complete; split <;> rfl
@[simp] theorem complete_kindValid : (complete s).kindValid = s.kindValid := by
  unfold complete; split <;> rfl
@[simp] theorem complete_recSamples : (complete s).recSamples = s.recSamples := by
  unfold complete; split <;> rfl
@[simp] theorem complete_samplesValid : (complete s).samplesValid = s.samplesValid := by
  unfold complete; split <;> rfl
@[simp] theorem complete_recStart : (complete s).recStart = s.recStart := by
  unfold complete; split <;> rfl
@[simp] theorem complete_rem : (complete s).rem = s.rem := by
  unfold complete; split <;> rfl
@[simp] theorem complete_inp : (complete s).inp = s.inp := by
  unfold complete; split <;> rfl
@[simp] theorem complete_phase : (complete s).phase = s.phase := by
  unfold complete; split <;> rfl
@[simp] theorem complete_dup : (complete s).dup = s.dup := by
  unfold complete; split <;> rfl
@[simp] theorem complete_bufLen : (complete s).bufLen = s.bufLen := by
  unfold complete; split <;> rfl
@[simp] theorem complete_input : (complete s).input = s.input := by
  unfold complete; split <;> rfl
@[simp] theorem complete_cfg : (complete s).cfg = s.cfg := by
  unfold complete; split <;> rfl
@[simp] theorem complete_recOut :
    (complete s).recOut = (if isAudio s.recKind then s.recOut ++ [(s.recStart, s.out.length - s.recStart)] else s.recOut) := by
  unfold complete; split <;> rfl
@[simp] theorem complete_freeCtr : (complete s).freeCtr = s.freeCtr := by
  unfold complete; split <;> rfl
@[simp] theorem complete_wPs : (complete s).wPs = s.wPs := by
  unfold complete; split <;> rfl
@[simp] theorem complete_wSi : (complete s).wSi = s.wSi := by
  unfold complete; split <;> rfl
@[simp] theorem complete_out : (complete s).out = s.out := by
  unfold complete; split <;> rfl
@[simp] theorem complete_ps : (complete s).ps = s.ps := by
  unfold complete; split <;> rfl
@[simp] theorem complete_si : (complete s).si = s.si := by
  unfold complete; split <;> rfl

end Sys2Proof.Machine
end

