-- ==== Sys2Proof/Laws/Ops.lean ====
section
/-! SUPPORT. One lemma per shared operation that says everything it can do, so that a proof cites it and does not unfold the
operation. -/

namespace Sys2Proof.Machine

/-! ### Arithmetic -/

theorem clamp_eq (v lo hi : Int) (h : lo ≤ hi) : clamp v lo hi = max lo (min hi v) := by
  unfold clamp
  split
  · omega
  · split <;> omega

/-- The narrowing of a saturated sample loses nothing (R146, R151). -/
theorem nextSample_toInt (w : Sample) (m : Int) :
    (nextSample w m).toInt = max (-32768) (min 32767 (w.toInt + m)) := by
  rw [nextSample, BitVec.toInt_ofInt, clamp_eq _ _ _ (by decide)]
  simp only [pcmMin, pcmMax]
  rw [Int.bmod_def]
  omega

/-- The narrowing of a clamped index loses nothing (R146, R151). -/
theorem nextIndex_toNat (w : BitVec 8) (d : Int) :
    ((nextIndex w d).toNat : Int) = max 0 (min 88 ((w.toNat : Int) + d)) := by
  rw [nextIndex, BitVec.toNat_ofInt, clamp_eq _ _ _ (by decide)]
  simp only [siMax]
  omega

theorem nextIndex_le (w : BitVec 8) (d : Int) : (nextIndex w d).toNat ≤ siMax := by
  have := nextIndex_toNat w d
  simp only [siMax]
  omega

theorem seedIndex_toNat (b : Byte) : (seedIndex b).toNat = b.toNat % 128 := by
  have : ∀ n < 256, (seedIndex (BitVec.ofNat 8 n)).toNat = n % 128 := by decide +kernel
  simpa using this b.toNat b.isLt

theorem seedSample_eq (b0 b1 : Byte) :
    seedSample b0 b1 = BitVec.ofNat 16 (b0.toNat * 256 + b1.toNat / 128 * 128) := by
  have hlow : ∀ n < 256, (BitVec.ofNat 8 n &&& 0x80#8).toNat = n / 128 * 128 := by decide +kernel
  have h1 : (b1 &&& 0x80#8).toNat = b1.toNat / 128 * 128 := by simpa using hlow b1.toNat b1.isLt
  have h0 := b0.isLt
  have hb := b1.isLt
  apply BitVec.eq_of_toNat_eq
  show (b0 ++ (b1 &&& 0x80#8)).toNat = _
  rw [BitVec.toNat_append, Nat.shiftLeft_eq, ← Nat.shiftLeft_eq, ← Nat.shiftLeft_add_eq_or_of_lt (b1 &&& 0x80#8).isLt,
    Nat.shiftLeft_eq, h1, BitVec.toNat_ofNat]
  omega

theorem nibble_high (b : Byte) : nibble .high b = BitVec.ofNat 4 (b.toNat / 16) := by
  have : ∀ n < 256, nibble .high (BitVec.ofNat 8 n) = BitVec.ofNat 4 (n / 16) := by decide +kernel
  simpa using this b.toNat b.isLt

theorem nibble_low (b : Byte) : nibble .low b = BitVec.ofNat 4 (b.toNat % 16) := by
  have : ∀ n < 256, nibble .low (BitVec.ofNat 8 n) = BitVec.ofNat 4 (n % 16) := by decide +kernel
  simpa using this b.toNat b.isLt

/-- The machine's difference is the source's, with the shifts as divisions (R146). -/
theorem difference_eq (c : Code) (step : Nat) : difference c step = refDiff c step := by
  have hb : ∀ n < 16, ((BitVec.ofNat 4 n).getLsbD 0 = decide (n % 2 = 1))
      ∧ ((BitVec.ofNat 4 n).getLsbD 1 = decide (n / 2 % 2 = 1))
      ∧ ((BitVec.ofNat 4 n).getLsbD 2 = decide (n / 4 % 2 = 1))
      ∧ ((BitVec.ofNat 4 n).getLsbD 3 = decide (8 ≤ n)) := by decide
  have h := hb c.toNat c.isLt
  simp only [BitVec.ofNat_toNat, BitVec.setWidth_eq] at h
  obtain ⟨h0, h1, h2, h3⟩ := h
  simp only [difference, magnitude, refDiff, h0, h1, h2, h3, Nat.shiftRight_eq_div_pow, decide_eq_true_eq,
    Nat.reducePow]

/-- `INDEX_DELTA` (R141). -/
theorem indexDelta_eq (c : Code) : indexDelta c = refDelta c := by
  have : ∀ n < 16, indexDelta (BitVec.ofNat 4 n) = refDelta (BitVec.ofNat 4 n) := by decide
  simpa using this c.toNat c.isLt

/-! ### Parameters -/

theorem legal_table_length {c : Config} (h : c.legal = true) : c.stepTable.length = 89 := by
  simp only [Config.legal, Config.stepsAdmitted, Bool.and_eq_true, beq_iff_eq] at h
  exact h.1.2.1.1

/-- A legal index has a step size (R7, R21). -/
theorem legal_lookup {c : Config} (h : c.legal = true) {i : Nat} (hi : i ≤ siMax) :
    c.stepTable[i]? = some (c.stepTable.getD i 0) := by
  have hl := legal_table_length h
  have : i < c.stepTable.length := by simp only [siMax] at hi; omega
  simp [List.getD_eq_getElem?_getD, List.getElem?_eq_getElem this]

theorem legal_codes {c : Config} (h : c.legal = true) : c.codesDistinct = true := by
  simp only [Config.legal, Bool.and_eq_true] at h
  exact h.1.1

theorem legal_layout {c : Config} (h : c.legal = true) :
    c.layout.length = 18 ∧ (∀ w ∈ c.layout, w = 1 ∨ w = 2 ∨ w = 4) ∧ c.layout.sum = 44 := by
  simp only [Config.legal, Config.layoutAdmitted, Bool.and_eq_true, beq_iff_eq, List.all_eq_true, Bool.or_eq_true] at h
  exact ⟨h.2.1.1, fun w hw => by have := h.2.1.2 w hw; tauto, h.2.2⟩

/-! ### The slices of the output -/

@[simp] theorem recEnd_append (l : List (Nat × Nat)) (x : Nat × Nat) : recEnd (l ++ [x]) = x.1 + x.2 := by
  simp [recEnd]

/-- One more slice tiles the output if it begins where the last one ends (R33). -/
theorem tiles_append (l : List (Nat × Nat)) (x : Nat × Nat) :
    tiles 0 (l ++ [x]) = true ↔ tiles 0 l = true ∧ x.1 = recEnd l := by
  have key : ∀ e, tiles e (l ++ [x]) = true
      ↔ tiles e l = true ∧ x.1 = (match l.getLast? with | none => e | some (a, n) => a + n) := by
    induction l with
    | nil => intro e; obtain ⟨a, n⟩ := x; simp [tiles]
    | cons y l ih =>
      intro e
      obtain ⟨a, n⟩ := y
      simp only [List.cons_append, tiles, Bool.and_eq_true, ih, and_assoc]
      cases l with
      | nil => simp
      | cons z l => simp [List.getLast?_cons_cons]; tauto
  exact key 0

/-! ### Conditions -/

theorem headerDue_iff {s : State} : headerDue s = true ↔ s.runState = .idle ∧ s.pc = 0 := by
  simp [headerDue]

theorem recordDue_iff {s : State} : recordDue s = true ↔ s.runState = .walk ∧ s.seq = .fetch := by
  simp [recordDue]

theorem codeDue_iff {s : State} : codeDue s = true ↔ s.runState = .walk ∧ s.seq = .decode ∧ 0 < s.rem := by
  simp [codeDue, and_assoc]

theorem windowFits_iff {s : State} {k : RecKind} {z : Word32} :
    windowFits (enterRecord k z s) = true ↔ s.pc + recHdrSize + z.toNat ≤ s.bufLen := by
  unfold windowFits
  rw [decide_eq_true_eq]
  rfl

/-! ### Free values -/

theorem freeTail_length_le (ctr n : Nat) : (freeTail ctr n).length ≤ n := by
  have : Config.freeCount ctr % (n + 1) < n + 1 := Nat.mod_lt _ (Nat.succ_pos n)
  simp only [freeTail, List.length_map, List.length_range]
  omega

@[simp] theorem freeTail_zero (ctr : Nat) : freeTail ctr 0 = [] := by simp [freeTail, Nat.mod_one]

/-- Where the record has emitted nothing, unsettling leaves the output as it is. -/
theorem unsettle_out_of_none {s : State} (h : s.recStart = s.out.length) : (unsettle s).out = s.out := by
  simp [h]

theorem unsettle_si_le (s : State) : (unsettle s).si.toNat ≤ siMax := by
  have := (Config.freeSi s.freeCtr).isLt
  simp only [unsettle_si, BitVec.toNat_ofNat, siMax]
  omega

theorem cellsOf_length (dup : Bool) (v : Sample) : (cellsOf dup v).length = cellCount dup := by
  cases dup <;> rfl

/-! ### The host's read of a record register -/

@[simp] theorem recordReg_valid (w : Bool) (v x : Nat) : recordReg true w v x = .ok (some (v : Int)) := rfl

@[simp] theorem recordReg_unwritten (v x : Nat) : recordReg false false v x = .error .noValue := rfl

/-- A record register some record has written reads as a value of its range, a free one if it is no longer valid (R29,
log 24). -/
theorem recordReg_written {v x n : Nat} (b : Bool) (hv : v < n) (hx : x < n) :
    ∃ y < n, recordReg b true v x = .ok (some (y : Int)) := by
  cases b with
  | false => exact ⟨x, hx, rfl⟩
  | true => exact ⟨v, hv, rfl⟩

/-! ### The operations -/

/-- Everything HDR can do when it answers a next state (R110 to R113). -/
theorem execHdr_next {h : Header} {s t : State} (he : execHdr h s = .next t) :
    s.runState = .idle ∧ s.pc = 0 ∧
      ((s.bufLen < hdrSize ∧ t = raise .outOfBounds s)
        ∨ (hdrSize ≤ s.bufLen ∧ h.tag = signature ∧ t = { latchHeader h s with pc := hdrSize, runState := .walk })
        ∨ (hdrSize ≤ s.bufLen ∧ h.tag ≠ signature ∧ t = raise .malformedHeader (latchHeader h s))) := by
  unfold execHdr at he
  split at he
  · rename_i hd
    obtain ⟨h1, h2⟩ := headerDue_iff.1 hd
    refine ⟨h1, h2, ?_⟩
    split at he
    · rename_i hl
      cases he
      exact .inl ⟨hl, rfl⟩
    · rename_i hl
      split at he
      · rename_i ht
        cases he
        exact .inr (.inl ⟨by omega, ht, rfl⟩)
      · rename_i ht
        cases he
        exact .inr (.inr ⟨by omega, ht, rfl⟩)
  · cases he

/-- HDR where it is due, with the buffer long enough (R110, R112). -/
theorem execHdr_eq {h : Header} {s : State} (hr : s.runState = .idle) (hp : s.pc = 0) (hl : hdrSize ≤ s.bufLen) :
    execHdr h s = if h.tag = signature then .next { latchHeader h s with pc := hdrSize, runState := .walk }
      else .next (raise .malformedHeader (latchHeader h s)) := by
  unfold execHdr
  rw [if_pos (headerDue_iff.2 ⟨hr, hp⟩), if_neg (Nat.not_lt.2 hl)]

/-- Everything a video record can do when it answers a next state (R193, R197 to R199). -/
theorem videoRecord_next {k : RecKind} {z : Word32} {s t : State} (he : videoRecord k z s = .next t) :
    s.runState = .walk ∧ s.seq = .fetch ∧
      ((s.pc + recHdrSize + z.toNat ≤ s.bufLen ∧ t = complete (enterRecord k z s))
        ∨ (s.bufLen < s.pc + recHdrSize + z.toNat ∧ t = raise .outOfBounds (enterRecord k z s))) := by
  unfold videoRecord at he
  split at he
  · rename_i hd
    obtain ⟨h1, h2⟩ := recordDue_iff.1 hd
    refine ⟨h1, h2, ?_⟩
    split at he
    · rename_i hw
      cases he
      exact .inl ⟨windowFits_iff.1 hw, rfl⟩
    · rename_i hw
      cases he
      exact .inr ⟨by rw [windowFits_iff] at hw; omega, rfl⟩
  · cases he

/-- A record entered with its sample count read (R126). -/
def withSamples (k : RecKind) (z : Word32) (s : State) : State :=
  { enterRecord k z s with
    recSamples := BitVec.ofNat 32 (beNat (s.input.readBytes (s.pc + recHdrSize) audioSubHdrSize))
    samplesValid := true }

/-- The sample count is below 2^32 (R84). -/
theorem samples_lt (m : Memory) (a : Nat) : beNat (m.readBytes a audioSubHdrSize) < 2 ^ 32 := by
  have := beNat_lt (m.readBytes a audioSubHdrSize)
  rw [readBytes_length] at this
  simpa [audioSubHdrSize] using this

theorem withSamples_toNat (k : RecKind) (z : Word32) (s : State) :
    (withSamples k z s).recSamples.toNat = beNat (s.input.readBytes (s.pc + recHdrSize) audioSubHdrSize) := by
  simp only [withSamples, BitVec.toNat_ofNat]
  exact Nat.mod_eq_of_lt (samples_lt _ _)

/-- The sub-header of a record that fits the buffer (R126). -/
theorem audioSubHeader_enter {k : RecKind} {z : Word32} {s : State} (hw : s.pc + recHdrSize + z.toNat ≤ s.bufLen) :
    audioSubHeader (enterRecord k z s)
      = if z.toNat < audioSubHdrSize then none else some (withSamples k z s) := by
  unfold audioSubHeader
  split
  · rename_i hz
    rw [Option.map_eq_none_iff, memReadW_eq_none]
    left
    simp
    omega
  · rename_i hz
    rw [(memReadW_eq_some (v := beNat (s.input.readBytes (s.pc + recHdrSize) audioSubHdrSize))).2]
    · rfl
    · simp
      omega

/-- The Reset step of an entered record (R144, R170, R171). -/
theorem resetStep_setup {k : RecKind} {z : Word32} {s : State} (hw : s.pc + recHdrSize + z.toNat ≤ s.bufLen) :
    resetStep (setupDecode (withSamples k z s))
      = if (withSamples k z s).recSamples.toNat = 0 then raiseAudio .badSampleCount (setupDecode (withSamples k z s))
        else if z.toNat < 6 then raiseAudio .outOfBounds (setupDecode (withSamples k z s))
        else seedStep (s.input.read (s.pc + 12)) (s.input.read (s.pc + 13)) (setupDecode (withSamples k z s)) := by
  have hrem : (setupDecode (withSamples k z s)).rem = (withSamples k z s).recSamples.toNat := rfl
  have hinp : (setupDecode (withSamples k z s)).inp = s.pc + recHdrSize + audioSubHdrSize := rfl
  unfold resetStep
  by_cases hn : (withSamples k z s).recSamples.toNat = 0
  · rw [if_pos (hrem.trans hn), if_pos hn]
  · rw [if_neg (by rw [hrem]; exact hn), if_neg hn, hinp]
    have hp : (withSamples k z s).pc = s.pc := rfl
    have he : (withSamples k z s).winEnd = s.pc + recHdrSize + z.toNat := rfl
    have hbl : (withSamples k z s).bufLen = s.bufLen := rfl
    have hin : (withSamples k z s).input = s.input := rfl
    by_cases hz : z.toNat < 6
    · rw [if_pos hz]
      have hnone : memReadW (setupDecode (withSamples k z s)) (s.pc + recHdrSize + audioSubHdrSize + 1) 1 = none := by
        rw [memReadW_eq_none]
        left
        simp only [setupDecode_winEnd, he, recHdrSize, audioSubHdrSize]
        omega
      rw [hnone]
      split <;> simp_all
    · rw [if_neg hz]
      have h0 : memReadW (setupDecode (withSamples k z s)) (s.pc + recHdrSize + audioSubHdrSize) 1
          = some (s.input.read (s.pc + 12)).toNat := by
        rw [memReadW_eq_some]
        simp only [setupDecode_winEnd, setupDecode_bufLen, setupDecode_input, he, hbl, hin, recHdrSize, audioSubHdrSize]
          at hw ⊢
        exact ⟨by omega, by omega, by simp [Memory.readBytes, beNat]⟩
      have h1 : memReadW (setupDecode (withSamples k z s)) (s.pc + recHdrSize + audioSubHdrSize + 1) 1
          = some (s.input.read (s.pc + 13)).toNat := by
        rw [memReadW_eq_some]
        simp only [setupDecode_winEnd, setupDecode_bufLen, setupDecode_input, he, hbl, hin, recHdrSize, audioSubHdrSize]
          at hw ⊢
        exact ⟨by omega, by omega, by simp [Memory.readBytes, beNat]⟩
      rw [h0, h1]
      simp only [BitVec.ofNat_toNat, BitVec.setWidth_eq]

/-- The state the first step of a keyframe record leaves when its seed is legal (R144, R195). -/
def seeded (z : Word32) (s : State) : State :=
  emit (seedSample (s.input.read (s.pc + 12)) (s.input.read (s.pc + 13)))
    { setupDecode (withSamples .audioKeyframe z s) with
      inp := s.pc + 14
      wPs := seedSample (s.input.read (s.pc + 12)) (s.input.read (s.pc + 13))
      wSi := seedIndex (s.input.read (s.pc + 13))
      rem := (withSamples .audioKeyframe z s).recSamples.toNat - 1 }

/-- The Reset step of an entered keyframe record: the seed loaded and emitted, or a fault with nothing emitted (R144). -/
theorem resetStep_cases {z : Word32} {s : State} (hw : s.pc + recHdrSize + z.toNat ≤ s.bufLen) :
    (0 < (withSamples .audioKeyframe z s).recSamples.toNat ∧ 6 ≤ z.toNat
        ∧ (s.input.read (s.pc + 13)).toNat % 128 ≤ siMax
        ∧ resetStep (setupDecode (withSamples .audioKeyframe z s)) = seeded z s)
      ∨ ∃ c a, c ≠ .notAudio ∧ resetStep (setupDecode (withSamples .audioKeyframe z s))
          = raiseAudio c { setupDecode (withSamples .audioKeyframe z s) with inp := a } := by
  rw [resetStep_setup hw]
  split
  · exact .inr ⟨.badSampleCount, (setupDecode (withSamples .audioKeyframe z s)).inp, by decide, rfl⟩
  · split
    · exact .inr ⟨.outOfBounds, (setupDecode (withSamples .audioKeyframe z s)).inp, by decide, rfl⟩
    · unfold seedStep
      split
      · exact .inr ⟨.stepIndexRange, _, by decide, rfl⟩
      · rename_i hi
        rw [seedIndex_toNat] at hi
        exact .inl ⟨by omega, by omega, by omega, rfl⟩

/-- Everything an audio record's first step can do, from the walker between records (R191, R195, R196). -/
theorem audioRecord_eq {k : RecKind} (hk : isAudio k = true) {z : Word32} {s : State} (hr : s.runState = .walk)
    (hs : s.seq = .fetch) :
    audioRecord k z s =
      .next (if s.bufLen < s.pc + recHdrSize + z.toNat then raiseAudio .outOfBounds (enterRecord k z s)
        else if z.toNat < audioSubHdrSize then raiseAudio .outOfBounds (enterRecord k z s)
        else if k = .audioKeyframe then resetStep (setupDecode (withSamples k z s))
        else continueStep (setupDecode (withSamples k z s))) := by
  unfold audioRecord
  rw [if_pos (recordDue_iff.2 ⟨hr, hs⟩)]
  by_cases hw : s.pc + recHdrSize + z.toNat ≤ s.bufLen
  · rw [if_pos (windowFits_iff.2 hw), if_neg (by omega), audioSubHeader_enter hw]
    cases k with
    | audioKeyframe => by_cases hz : z.toNat < audioSubHdrSize <;> simp [hz, adpcmMode, startDecode]
    | audioPredict => by_cases hz : z.toNat < audioSubHdrSize <;> simp [hz, adpcmMode, startDecode]
    | videoKeyframe => exact absurd hk Bool.false_ne_true
    | videoPredict => exact absurd hk Bool.false_ne_true
    | videoHold => exact absurd hk Bool.false_ne_true
  · rw [if_neg (by rw [windowFits_iff]; exact hw), if_pos (by omega)]

theorem audioRecord_next {k : RecKind} {z : Word32} {s t : State} (he : audioRecord k z s = .next t) :
    s.runState = .walk ∧ s.seq = .fetch := by
  unfold audioRecord at he
  split at he
  · rename_i hd
    exact recordDue_iff.1 hd
  · cases he

/-- The state a code leaves when its step size is `step` (R146). -/
def afterCode (c : Code) (step : Half) (s : State) : State :=
  emit (nextSample s.wPs (difference c step.toNat))
    { s with
      wPs := nextSample s.wPs (difference c step.toNat)
      wSi := nextIndex s.wSi (indexDelta c) }

/-- A code that is due and has a step size runs (R146). -/
theorem codeStep_eq {c : Code} {s : State} {step : Half} (hr : s.runState = .walk) (hs : s.seq = .decode)
    (hrem : 0 < s.rem) (ht : s.cfg.stepTable[s.wSi.toNat]? = some step) : codeStep c s = .next (afterCode c step s) := by
  unfold codeStep
  rw [if_pos (codeDue_iff.2 ⟨hr, hs, hrem⟩), ht]
  rfl

theorem codeStep_next {c : Code} {s t : State} (he : codeStep c s = .next t) :
    s.runState = .walk ∧ s.seq = .decode ∧ 0 < s.rem
      ∧ ∃ step, s.cfg.stepTable[s.wSi.toNat]? = some step ∧ t = afterCode c step s := by
  unfold codeStep at he
  split at he
  · rename_i hd
    obtain ⟨h1, h2, h3⟩ := codeDue_iff.1 hd
    refine ⟨h1, h2, h3, ?_⟩
    split at he
    · cases he
    · rename_i step hst
      cases he
      exact ⟨step, hst, rfl⟩
  · cases he

/-! ### The dispatch -/

theorem exec_kindInstr (k : RecKind) (z : Word32) (s : State) :
    exec (kindInstr k z) s = if isAudio k then audioRecord k z s else videoRecord k z s := by
  cases k <;> rfl

theorem exec_codeInstr (c : Code) (s : State) : exec (codeInstr c) s = codeStep c s := by
  obtain ⟨⟨n, hn⟩⟩ := c
  have hn' : n < 16 := hn
  interval_cases n <;> rfl

theorem isCode_codeInstr (c : Code) : isCode (codeInstr c) = true := by
  obtain ⟨⟨n, hn⟩⟩ := c
  have hn' : n < 16 := hn
  interval_cases n <;> rfl

theorem isCode_kindInstr (k : RecKind) (z : Word32) : isCode (kindInstr k z) = false := by
  cases k <;> rfl

/-- A code operation is the operation of a code. -/
theorem codeInstr_of_isCode {i : Instr} (h : isCode i = true) : ∃ c, i = codeInstr c := by
  cases i <;> first
    | exact absurd h Bool.false_ne_true
    | exact ⟨0x0, rfl⟩ | exact ⟨0x1, rfl⟩ | exact ⟨0x2, rfl⟩ | exact ⟨0x3, rfl⟩ | exact ⟨0x4, rfl⟩ | exact ⟨0x5, rfl⟩
    | exact ⟨0x6, rfl⟩ | exact ⟨0x7, rfl⟩ | exact ⟨0x8, rfl⟩ | exact ⟨0x9, rfl⟩ | exact ⟨0xA, rfl⟩ | exact ⟨0xB, rfl⟩
    | exact ⟨0xC, rfl⟩ | exact ⟨0xD, rfl⟩ | exact ⟨0xE, rfl⟩ | exact ⟨0xF, rfl⟩

end Sys2Proof.Machine
end

