-- ==== Sys2Proof/Laws/PerInstr.lean ====
section
/-! SUPPORT. A law stated for each instruction as syntax: how many bytes its encoding has (30_encoding.md R80). -/

namespace Sys2Proof.Laws.EncodeLength

/-- The byte size of a format (R80); a code takes part of one byte. -/
def size : Format → Nat
  | .ch => 0x3C
  | .rh => 8
  | .nb _ => 1

/-- Under any admitted parameters the encoding of a well-formed instruction has the size of its format (R80). -/
def Statement (i : Instr) : Prop :=
  ∀ cfg : Config, cfg.legal = true → wellFormed cfg i = true → (encode cfg i).length = size (formatOf i)

theorem hdr (h : Header) : Statement (.hdr h) := by
  intro cfg hl hw
  have hsum : cfg.layout.sum = 44 := by
    simp only [Config.legal, Config.layoutAdmitted, Bool.and_eq_true, beq_iff_eq] at hl
    exact hl.2.2
  have hlen := joinFields_length (fieldsFit_length (show fieldsFit cfg.layout h.fields = true from hw))
  simp [encode, formatOf, size, hlen, hsum]

theorem recHeader (r : RecHeader) : (encodeRecHeader r).length = 8 := by simp [encodeRecHeader]

theorem akey (z : Word32) : Statement (.akey z) := fun _ _ _ => recHeader _
theorem apred (z : Word32) : Statement (.apred z) := fun _ _ _ => recHeader _
theorem vkey (z : Word32) : Statement (.vkey z) := fun _ _ _ => recHeader _
theorem vpred (z : Word32) : Statement (.vpred z) := fun _ _ _ => recHeader _
theorem vhold (z : Word32) : Statement (.vhold z) := fun _ _ _ => recHeader _
theorem c0 : Statement .c0 := fun _ _ _ => rfl
theorem c1 : Statement .c1 := fun _ _ _ => rfl
theorem c2 : Statement .c2 := fun _ _ _ => rfl
theorem c3 : Statement .c3 := fun _ _ _ => rfl
theorem c4 : Statement .c4 := fun _ _ _ => rfl
theorem c5 : Statement .c5 := fun _ _ _ => rfl
theorem c6 : Statement .c6 := fun _ _ _ => rfl
theorem c7 : Statement .c7 := fun _ _ _ => rfl
theorem c8 : Statement .c8 := fun _ _ _ => rfl
theorem c9 : Statement .c9 := fun _ _ _ => rfl
theorem cA : Statement .cA := fun _ _ _ => rfl
theorem cB : Statement .cB := fun _ _ _ => rfl
theorem cC : Statement .cC := fun _ _ _ => rfl
theorem cD : Statement .cD := fun _ _ _ => rfl
theorem cE : Statement .cE := fun _ _ _ => rfl
theorem cF : Statement .cF := fun _ _ _ => rfl

end Sys2Proof.Laws.EncodeLength
end

