-- ==== Sys2Proof/Laws/Step.lean ====
section
/-! SUPPORT. What one step can do, said once (`step_cases`), and what it does in each situation of the walker. -/

namespace Sys2Proof.Machine

/-- The 8 bytes at the cursor, as a header (R120). -/
def headerAt (s : State) : RecHeader := splitRecHeader (s.input.readBytes s.pc recHdrSize)

/-- The code at `INP` and `PHASE` (R145). -/
def codeAt (s : State) : Code := nibble s.phase (s.input.read s.inp)

/-! ### Each situation -/

theorem step_ended {s : State} (h : s.runState = .done ∨ s.runState = .fault) : step s = .next s := by
  rcases h with h | h <;> simp [step, fetch, h]

theorem step_waiting {s : State} (h : s.runState = .idle) (hs : s.started = false) : step s = .next s := by
  simp [step, fetch, h, hs]

theorem step_header_short {s : State} (h : s.runState = .idle) (hs : s.started = true) (hl : s.bufLen < hdrSize) :
    step s = .next (raise .outOfBounds s) := by
  have hb : readBytes s 0 hdrSize = none := readBytes_eq_none.2 (by omega)
  simp [step, fetch, fetchHeader, h, hs, hb]

theorem step_header {s : State} (h : s.runState = .idle) (hs : s.started = true) (hl : hdrSize ≤ s.bufLen) :
    step s = exec (.hdr (splitHeader s.cfg (s.input.readBytes 0 hdrSize))) s := by
  have hb : readBytes s 0 hdrSize = some (s.input.readBytes 0 hdrSize) := readBytes_eq_some.2 ⟨by omega, rfl⟩
  have hd : decode s.cfg .ch (s.input.readBytes 0 hdrSize)
      = .ok (.hdr (splitHeader s.cfg (s.input.readBytes 0 hdrSize))) := by
    simp [decode, decodeCh]
  simp only [step, fetch, fetchHeader, h, hs, hb, hd, if_true]
  cases exec (.hdr (splitHeader s.cfg (s.input.readBytes 0 hdrSize))) s <;> rfl

theorem step_done {s : State} (h : s.runState = .walk) (hs : s.seq = .fetch) (hp : s.bufLen ≤ s.pc) :
    step s = .next { s with runState := .done } := by
  have : ¬ s.pc < s.bufLen := by omega
  simp [step, fetch, h, hs, this]

theorem step_record_short {s : State} (h : s.runState = .walk) (hs : s.seq = .fetch) (hp : s.pc < s.bufLen)
    (hl : s.bufLen < s.pc + recHdrSize) : step s = .next (raise .outOfBounds (dropRecord s)) := by
  have hb : readBytes s s.pc recHdrSize = none := readBytes_eq_none.2 hl
  simp [step, fetch, fetchRecord, h, hs, hp, hb]

theorem decode_record (s : State) :
    decode s.cfg .rh (s.input.readBytes s.pc recHdrSize)
      = match recKind s.cfg (headerAt s) with
        | .ok k => .ok (kindInstr k (headerAt s).size)
        | .error r => .error r := by
  have hl : ¬ (s.input.readBytes s.pc recHdrSize).length < recHdrSize := by simp
  exact (if_neg (t := .error .short) hl).trans rfl

theorem step_record_rejected {s : State} (h : s.runState = .walk) (hs : s.seq = .fetch)
    (hl : s.pc + recHdrSize ≤ s.bufLen) {r : Reject} (hk : recKind s.cfg (headerAt s) = .error r) :
    step s = .next (rejectRecord (headerAt s) r s) := by
  have hb : readBytes s s.pc recHdrSize = some (s.input.readBytes s.pc recHdrSize) := readBytes_eq_some.2 ⟨hl, rfl⟩
  have hp : s.pc < s.bufLen := by simp only [recHdrSize] at hl; omega
  have hd := decode_record s
  rw [hk] at hd
  simp only [step, fetch, fetchRecord, h, hs, hp, hb, hd, if_true]
  rfl

theorem step_record {s : State} (h : s.runState = .walk) (hs : s.seq = .fetch)
    (hl : s.pc + recHdrSize ≤ s.bufLen) {k : RecKind} (hk : recKind s.cfg (headerAt s) = .ok k) :
    step s = exec (kindInstr k (headerAt s).size) s := by
  have hb : readBytes s s.pc recHdrSize = some (s.input.readBytes s.pc recHdrSize) := readBytes_eq_some.2 ⟨hl, rfl⟩
  have hp : s.pc < s.bufLen := by simp only [recHdrSize] at hl; omega
  have hd := decode_record s
  rw [hk] at hd
  simp only [step, fetch, fetchRecord, h, hs, hp, hb, hd, if_true]
  cases exec (kindInstr k (headerAt s).size) s <;> simp [retire, isCode_kindInstr]

theorem step_finish {s : State} (h : s.runState = .walk) (hs : s.seq = .decode) (hr : s.rem = 0) :
    step s = .next (finishAudio s) := by
  simp [step, fetch, h, hs, hr]

theorem step_code_outside {s : State} (h : s.runState = .walk) (hs : s.seq = .decode) (hr : 0 < s.rem)
    (hw : s.winEnd < s.inp + 1 ∨ s.bufLen < s.inp + 1) : step s = .next (raiseAudio .outOfBounds s) := by
  have hm : memReadW s s.inp 1 = none := memReadW_eq_none.2 hw
  have hr' : ¬ s.rem = 0 := by omega
  simp [step, fetch, fetchCode, h, hs, hr', hm]

theorem decode_code (s : State) :
    decode s.cfg (.nb s.phase) [s.input.read s.inp] = .ok (codeInstr (codeAt s)) := rfl

theorem step_code {s : State} (h : s.runState = .walk) (hs : s.seq = .decode) (hr : 0 < s.rem)
    (hw : s.inp + 1 ≤ s.winEnd) (hb : s.inp + 1 ≤ s.bufLen) :
    step s = match codeStep (codeAt s) (advanceNibble s) with
      | .next t => .next (countSample t)
      | .fault f => .fault f
      | .refused r => .refused r := by
  have hm : memReadW s s.inp 1 = some (s.input.read s.inp).toNat :=
    memReadW_eq_some.2 ⟨hw, hb, by simp [Memory.readBytes, beNat]⟩
  have hr' : ¬ s.rem = 0 := by omega
  simp only [step, fetch, fetchCode, h, hs, hr', hm, if_false, BitVec.ofNat_toNat, BitVec.setWidth_eq, decode_code,
    exec_codeInstr]
  cases codeStep (codeAt s) (advanceNibble s) <;> simp [retire, isCode_codeInstr]

/-- A code that is in the window and has a step size runs (R145, R146, R149). -/
theorem step_code_runs {s : State} (h : s.runState = .walk) (hs : s.seq = .decode) (hr : 0 < s.rem)
    (hw : s.inp + 1 ≤ s.winEnd) (hb : s.inp + 1 ≤ s.bufLen) {step' : Half}
    (ht : s.cfg.stepTable[s.wSi.toNat]? = some step') :
    step s = .next (countSample (afterCode (codeAt s) step' (advanceNibble s))) := by
  rw [step_code h hs hr hw hb, codeStep_eq (by simpa using h) (by simpa using hs) (by simpa using hr)
    (by simpa using ht)]

/-! ### All situations -/

/-- What a step that answers a next state has done. -/
inductive StepCase (s : State) : State → Prop
  /-- the run has ended: absorbing (R31) -/
  | ended : s.runState = .done ∨ s.runState = .fault → StepCase s s
  /-- the start command has not been given (R231) -/
  | waiting : s.runState = .idle → s.started = false → StepCase s s
  /-- a buffer shorter than a header (R111) -/
  | headerShort : s.runState = .idle → s.started = true → s.bufLen < hdrSize → StepCase s (raise .outOfBounds s)
  /-- HDR with a good tag (R110) -/
  | headerOk (h : Header) : s.runState = .idle → s.pc = 0 → hdrSize ≤ s.bufLen →
      h = splitHeader s.cfg (s.input.readBytes 0 hdrSize) → h.tag = signature →
      StepCase s { latchHeader h s with pc := hdrSize, runState := .walk }
  /-- HDR with a bad tag (R112) -/
  | headerBad (h : Header) : s.runState = .idle → s.pc = 0 → hdrSize ≤ s.bufLen →
      h = splitHeader s.cfg (s.input.readBytes 0 hdrSize) →
      StepCase s (raise .malformedHeader (latchHeader h s))
  /-- the end of the buffer (R200) -/
  | finished : s.runState = .walk → s.seq = .fetch → s.bufLen ≤ s.pc → StepCase s { s with runState := .done }
  /-- a stray tail of 1 to 7 bytes (R120) -/
  | recordShort : s.runState = .walk → s.seq = .fetch → s.pc < s.bufLen → s.bufLen < s.pc + recHdrSize →
      StepCase s (raise .outOfBounds (dropRecord s))
  /-- an unmapped type or format (R121, R122) -/
  | rejected (r : Reject) : s.runState = .walk → s.seq = .fetch → s.pc + recHdrSize ≤ s.bufLen →
      recKind s.cfg (headerAt s) = .error r → StepCase s (rejectRecord (headerAt s) r s)
  /-- a video record skipped (R197 to R199) -/
  | video (k : RecKind) (z : Word32) : s.runState = .walk → s.seq = .fetch → isAudio k = false →
      recKind s.cfg (headerAt s) = .ok k → z = (headerAt s).size → s.pc + recHdrSize + z.toNat ≤ s.bufLen →
      StepCase s (complete (enterRecord k z s))
  /-- a video record whose payload overruns the buffer (R193) -/
  | videoOver (k : RecKind) (z : Word32) : s.runState = .walk → s.seq = .fetch → isAudio k = false →
      recKind s.cfg (headerAt s) = .ok k → z = (headerAt s).size → s.bufLen < s.pc + recHdrSize + z.toNat →
      StepCase s (raise .outOfBounds (enterRecord k z s))
  /-- an audio record that faults in its first step (R193, R195, R196): from the record just entered, or from the decode set
  up, nothing emitted -/
  | audioFault (k : RecKind) (z : Word32) (c : FaultCause) (u : State) : s.runState = .walk → s.seq = .fetch →
      isAudio k = true → recKind s.cfg (headerAt s) = .ok k → z = (headerAt s).size → c ≠ .notAudio →
      (u = enterRecord k z s ∨ ∃ a, u = { setupDecode (withSamples k z s) with inp := a }) →
      StepCase s (raiseAudio c u)
  /-- a keyframe record's first step: the seed is loaded and emitted (R195) -/
  | akey (z : Word32) : s.runState = .walk → s.seq = .fetch → recKind s.cfg (headerAt s) = .ok .audioKeyframe →
      z = (headerAt s).size → s.pc + recHdrSize + z.toNat ≤ s.bufLen → 6 ≤ z.toNat →
      0 < (withSamples .audioKeyframe z s).recSamples.toNat → (s.input.read (s.pc + 13)).toNat % 128 ≤ siMax →
      StepCase s (seeded z s)
  /-- a predict record's first step (R196) -/
  | apred (z : Word32) : s.runState = .walk → s.seq = .fetch → recKind s.cfg (headerAt s) = .ok .audioPredict →
      z = (headerAt s).size → s.pc + recHdrSize + z.toNat ≤ s.bufLen → 4 ≤ z.toNat →
      StepCase s (continueStep (setupDecode (withSamples .audioPredict z s)))
  /-- the end of an audio record (R148, R192) -/
  | finish : s.runState = .walk → s.seq = .decode → s.rem = 0 → StepCase s (finishAudio s)
  /-- a code byte outside the window (R145) -/
  | codeOutside : s.runState = .walk → s.seq = .decode → 0 < s.rem →
      s.winEnd < s.inp + 1 ∨ s.bufLen < s.inp + 1 → StepCase s (raiseAudio .outOfBounds s)
  /-- a code (R145, R146, R149) -/
  | code (step' : Half) : s.runState = .walk → s.seq = .decode → 0 < s.rem → s.inp + 1 ≤ s.winEnd →
      s.inp + 1 ≤ s.bufLen → s.cfg.stepTable[s.wSi.toNat]? = some step' →
      StepCase s (countSample (afterCode (codeAt s) step' (advanceNibble s)))

theorem step_cases {s t : State} (h : step s = .next t) : StepCase s t := by
  cases hr : s.runState with
  | done =>
    rw [step_ended (.inl hr)] at h
    cases h
    exact .ended (.inl hr)
  | fault =>
    rw [step_ended (.inr hr)] at h
    cases h
    exact .ended (.inr hr)
  | idle =>
    cases hs : s.started with
    | false =>
      rw [step_waiting hr hs] at h
      cases h
      exact .waiting hr hs
    | true =>
      by_cases hl : s.bufLen < hdrSize
      · rw [step_header_short hr hs hl] at h
        cases h
        exact .headerShort hr hs hl
      · rw [step_header hr hs (by omega)] at h
        obtain ⟨-, hp, ⟨hb, rfl⟩ | ⟨hb, ht, rfl⟩ | ⟨hb, -, rfl⟩⟩ := execHdr_next h
        · exact .headerShort hr hs hb
        · exact .headerOk _ hr hp hb rfl ht
        · exact .headerBad _ hr hp hb rfl
  | walk =>
    cases hs : s.seq with
    | fetch =>
      by_cases hp : s.bufLen ≤ s.pc
      · rw [step_done hr hs hp] at h
        cases h
        exact .finished hr hs hp
      · by_cases hl : s.bufLen < s.pc + recHdrSize
        · rw [step_record_short hr hs (by omega) hl] at h
          cases h
          exact .recordShort hr hs (by omega) hl
        · cases hk : recKind s.cfg (headerAt s) with
          | error r =>
            rw [step_record_rejected hr hs (by omega) hk] at h
            cases h
            exact .rejected r hr hs (by omega) hk
          | ok k =>
            rw [step_record hr hs (by omega) hk, exec_kindInstr] at h
            cases ha : isAudio k with
            | true =>
              rw [ha, if_pos rfl, audioRecord_eq ha hr hs] at h
              cases h
              split
              · exact .audioFault k _ _ _ hr hs ha hk rfl (by decide) (.inl rfl)
              · rename_i hw
                split
                · exact .audioFault k _ _ _ hr hs ha hk rfl (by decide) (.inl rfl)
                · rename_i hz
                  have hz' : 4 ≤ (headerAt s).size.toNat := by simp only [audioSubHdrSize] at hz; omega
                  split
                  · rename_i hka
                    subst hka
                    rcases resetStep_cases (z := (headerAt s).size) (s := s) (by omega) with
                      ⟨hn, h6, hi, he⟩ | ⟨c, a, hc, he⟩
                    · rw [he]
                      exact .akey _ hr hs hk rfl (by omega) h6 hn hi
                    · rw [he]
                      exact .audioFault .audioKeyframe _ c _ hr hs ha hk rfl hc (.inr ⟨a, rfl⟩)
                  · rename_i hka
                    cases k with
                    | audioPredict => exact .apred _ hr hs hk rfl (by omega) hz'
                    | audioKeyframe => exact absurd rfl hka
                    | videoKeyframe => exact absurd ha Bool.false_ne_true
                    | videoPredict => exact absurd ha Bool.false_ne_true
                    | videoHold => exact absurd ha Bool.false_ne_true
            | false =>
              rw [ha, if_neg (by simp)] at h
              obtain ⟨-, -, ⟨hw, rfl⟩ | ⟨hw, rfl⟩⟩ := videoRecord_next h
              · exact .video k _ hr hs ha hk rfl hw
              · exact .videoOver k _ hr hs ha hk rfl hw
    | decode =>
      by_cases hz : s.rem = 0
      · rw [step_finish hr hs hz] at h
        cases h
        exact .finish hr hs hz
      · by_cases hw : s.inp + 1 ≤ s.winEnd ∧ s.inp + 1 ≤ s.bufLen
        · rw [step_code hr hs (by omega) hw.1 hw.2] at h
          cases hc : codeStep (codeAt s) (advanceNibble s) with
          | next u =>
            rw [hc] at h
            cases h
            obtain ⟨-, -, -, st, hst, rfl⟩ := codeStep_next hc
            exact .code st hr hs (by omega) hw.1 hw.2 (by simpa using hst)
          | fault f => rw [hc] at h; cases h
          | refused r => rw [hc] at h; cases h
        · rw [step_code_outside hr hs (by omega) (by omega)] at h
          cases h
          exact .codeOutside hr hs (by omega) (by omega)

/-! ### Runs of several steps -/

@[simp] theorem runFor_zero (s : State) : runFor 0 s = .next s := rfl

theorem runFor_succ (n : Nat) {s t : State} (h : step s = .next t) : runFor (n + 1) s = runFor n t := by
  have hc : core.step s = .next t := h
  simp only [runFor, Host.Core.run]
  rw [hc]

theorem runFor_ended (n : Nat) {s : State} (h : s.runState = .done ∨ s.runState = .fault) : runFor n s = .next s := by
  induction n with
  | zero => rfl
  | succ n ih => rw [runFor_succ n (step_ended h), ih]

/-- A run of `n + k` steps is a run of `k` steps after one of `n`. -/
theorem runFor_add {n : Nat} (k : Nat) {s t : State} (h : runFor n s = .next t) : runFor (n + k) s = runFor k t := by
  induction n generalizing s with
  | zero =>
    rw [runFor_zero] at h
    cases h
    rw [Nat.zero_add]
  | succ n ih =>
    cases hs : step s with
    | next u =>
      rw [runFor_succ n hs] at h
      rw [Nat.add_right_comm, runFor_succ (n + k) hs, ih h]
    | fault f =>
      have hc : core.step s = .fault f := hs
      simp only [runFor, Host.Core.run] at h
      rw [hc] at h
      cases h
    | refused r =>
      have hc : core.step s = .refused r := hs
      simp only [runFor, Host.Core.run] at h
      rw [hc] at h
      cases h

end Sys2Proof.Machine
end

