-- ==== Sys2Proof/Tests/Slice0.lean ====
section
/-! SUPPORT. Tests: expected values are those of spec/95_test_vectors.md (T, S and P numbers) and of the rules' own examples.
The witness theorems at the end give, for every obligation with hypotheses, concrete states and operands that meet them, at the
boundary values of each clause. -/

namespace Sys2Proof.Tests

open Sys2Proof Sys2Proof.Machine

/-! ### Helpers -/

/-- The 60 header bytes of program P1. -/
def headerP1 : List Byte :=
  [0x48, 0x56, 0x51, 0x4D, 0x32, 0x20, 0x31, 0x2E, 0x30, 0, 0, 0, 0, 0, 0, 0]
  ++ [0x00, 0x00, 0x00, 0x4B, 0x01, 0x40, 0x00, 0xF0, 0x02, 0x02, 0, 0, 0, 0, 0, 0]
  ++ [0x00, 0x00, 0x82, 0x56, 0, 0, 0, 0, 0, 0, 0, 0, 0, 0x01, 0x10, 0]
  ++ [0x00, 0x00, 0x00, 0x01, 0x00, 0x00, 0x56, 0x22, 0x00, 0x00, 0x00, 0x07]

/-- The fields of that header (T3). -/
def fieldsP1 : Header := ⟨signature, 75, 320, 240, 2, 2, 0, 0, 0, 33366, 0, 0, 0, 1, 16, 0, 1, 22050, 7⟩

/-- A block that has been given an input and started. -/
def started (bytes : List Byte) : State :=
  { State.reset with started := true, input := Memory.ofBytes 0 bytes, bufLen := bytes.length, ps := 0, si := 0 }

/-- A block in `WALK` at offset 60, with the bytes there. -/
def walkAt (dup : Bool) (p : Sample) (i : BitVec 8) (bytes : List Byte) : State :=
  { State.reset with
    started := true, runState := .walk, pc := 60, hdr := fieldsP1, hdrValid := true, dup := dup,
    ps := p, si := i, input := Memory.ofBytes 60 bytes, bufLen := 60 + bytes.length }

/-- A block inside an `APRED` record at offset 60, whose `n` codes are the bytes from offset 72. -/
def inRecord (p : Sample) (i : BitVec 8) (n : Nat) (bytes : List Byte) : State :=
  { walkAt false p i ([0, 0, 0, 1, 0, 0, 0, 4 + BitVec.ofNat 8 bytes.length, 0, 0, 0, BitVec.ofNat 8 n] ++ bytes) with
    seq := .decode, recFormat := 1, recSize := BitVec.ofNat 32 (4 + bytes.length), recValid := true,
    recKind := .audioPredict, winEnd := 72 + bytes.length, kindValid := true, recSamples := BitVec.ofNat 32 n,
    samplesValid := true, rem := n, inp := 72, wPs := p, wSi := i }

/-- What a code makes of a sample, an index and the output, with one sample to produce. -/
def codeResult (i : Instr) (p : Int) (si : Nat) : Option (Int × Nat × List Int) :=
  match exec i (inRecord (BitVec.ofInt 16 p) (BitVec.ofNat 8 si) 1 [0]) with
  | .next t => some (t.wPs.toInt, t.wSi.toNat, outInts t)
  | .fault _ => none
  | .refused _ => none

/-- The run state, the fault registers, and the header registers' validity, after one step. -/
def faultOf (s : State) : Option (RunState × Option FaultInfo) :=
  match step s with
  | .next t => some (t.runState, t.fault)
  | .fault _ => none
  | .refused _ => none

/-- The working sample and index, the samples emitted and `REM`, after one step. -/
def seedOf (s : State) : Option (Int × Nat × List Int × Nat) :=
  match step s with
  | .next t => some (t.wPs.toInt, t.wSi.toNat, outInts t, t.rem)
  | .fault _ => none
  | .refused _ => none

/-- The counters and the cursor after one step. -/
def countsOf (s : State) : Option (Nat × Nat × Nat × Nat × Nat) :=
  match step s with
  | .next t => some (t.nAudio, t.nVideo, t.audioBytes, t.recIndex, t.pc)
  | .fault _ => none
  | .refused _ => none

/-! ### WellFormed, and the admitted parameters -/

theorem test_wellFormed_accepts : wellFormed defaultConfig (.hdr fieldsP1) = true := by decide

/-- A 16-bit field of the default layout refuses 65536, an 8-bit field 256. -/
theorem test_wellFormed_refuses :
    wellFormed defaultConfig (.hdr { fieldsP1 with width := 65536 }) = false
    ∧ wellFormed defaultConfig (.hdr { fieldsP1 with height := 65536 }) = false
    ∧ wellFormed defaultConfig (.hdr { fieldsP1 with hSampling := 256 }) = false
    ∧ wellFormed defaultConfig (.hdr { fieldsP1 with vSampling := 256 }) = false
    ∧ wellFormed defaultConfig (.hdr { fieldsP1 with yShift := 256 }) = false
    ∧ wellFormed defaultConfig (.hdr { fieldsP1 with videoQShift := 256 }) = false
    ∧ wellFormed defaultConfig (.hdr { fieldsP1 with audioFormat := 256 }) = false
    ∧ wellFormed defaultConfig (.hdr { fieldsP1 with channels := 256 }) = false
    ∧ wellFormed defaultConfig (.hdr { fieldsP1 with sampleBits := 256 }) = false
    ∧ wellFormed defaultConfig (.hdr { fieldsP1 with audioQStep := 256 }) = false := by decide

/-- A layout with a field too few or too many fits no header. -/
theorem test_wellFormed_refuses_layout :
    wellFormed { defaultConfig with layout := defaultConfig.layout.drop 1 } (.hdr fieldsP1) = false
    ∧ wellFormed { defaultConfig with layout := defaultConfig.layout ++ [1] } (.hdr fieldsP1) = false := by decide

theorem test_default_config_is_legal : defaultConfig.legal = true := by decide

/-- R7: codes of one enumeration are distinct; the table has 89 entries from 7 to 32767; the layout is 18 fields, 44 bytes. -/
theorem test_config_refuses :
    ({ defaultConfig with codeVideo := 0 } : Config).legal = false
    ∧ ({ defaultConfig with fmtVideoHold := 1 } : Config).legal = false
    ∧ ({ defaultConfig with stepTable := defaultStepTable.drop 1 } : Config).legal = false
    ∧ ({ defaultConfig with layout := [4, 2, 2, 1, 1, 1, 1, 4, 4, 4, 4, 1, 1, 1, 1, 4, 4, 3] } : Config).legal = false := by
  decide

/-- R34, R142: entries of the table that 2.4 and 2.5 of the vectors name. -/
theorem test_step_table :
    defaultStepTable.length = 89 ∧ defaultStepTable[0]? = some 7 ∧ defaultStepTable[30]? = some 130
    ∧ defaultStepTable[51]? = some 963 ∧ defaultStepTable[52]? = some 1060 ∧ defaultStepTable[59]? = some 2066
    ∧ defaultStepTable[60]? = some 2272 ∧ defaultStepTable[87]? = some 29794 ∧ defaultStepTable[88]? = some 32767 := by
  decide

/-! ### Decoding, from words written out of the encodings -/

/-- T3, T5: P1's header. -/
theorem test_decode_hdr : decode defaultConfig .ch headerP1 = .ok (.hdr fieldsP1) := by decide

/-- T20: type 0000, format 0000, size 00000007. -/
theorem test_decode_akey : decode defaultConfig .rh [0, 0, 0, 0, 0, 0, 0, 7] = .ok (.akey 7) := by decide

/-- T21. -/
theorem test_decode_apred : decode defaultConfig .rh [0, 0, 0, 1, 0, 0, 0, 5] = .ok (.apred 5) := by decide

/-- T22: size 0x100, big-endian. -/
theorem test_decode_vkey : decode defaultConfig .rh [0, 1, 0, 0, 0, 0, 1, 0] = .ok (.vkey 256) := by decide

/-- T23. -/
theorem test_decode_vpred : decode defaultConfig .rh [0, 1, 0, 1, 0, 0, 0, 4] = .ok (.vpred 4) := by decide

/-- T24. -/
theorem test_decode_vhold : decode defaultConfig .rh [0, 1, 0, 2, 0, 0, 0, 0] = .ok (.vhold 0) := by decide

/-- T25, T26, T29: unmapped types, whatever the format; T27, T28: unmapped formats of a mapped type. -/
theorem test_decode_rejects :
    decode defaultConfig .rh [0, 2, 0, 0, 0, 0, 0, 0] = .error .unknownType
    ∧ decode defaultConfig .rh [0xFF, 0xFF, 0, 0, 0, 0, 0, 0] = .error .unknownType
    ∧ decode defaultConfig .rh [1, 0, 0, 0, 0, 0, 0, 0] = .error .unknownType
    ∧ decode defaultConfig .rh [0, 2, 0, 9, 0, 0, 0, 0] = .error .unknownType
    ∧ decode defaultConfig .rh [0, 0, 0, 2, 0, 0, 0, 0] = .error .unknownFormat
    ∧ decode defaultConfig .rh [0, 1, 0, 3, 0, 0, 0, 0] = .error .unknownFormat
    ∧ decode defaultConfig .rh [0, 0, 0, 0, 0, 0, 0] = .error .short
    ∧ decode defaultConfig .ch (headerP1.take 59) = .error .short
    ∧ decode defaultConfig (.nb .high) [] = .error .short := by decide

/-- R86, R87: the stream bytes 0x01, 0x23, ... hold the codes 0, 1, 2, 3, ..., the high nibble first. -/
theorem test_decode_codes :
    (decode defaultConfig (.nb .high) [0x01] = .ok .c0 ∧ decode defaultConfig (.nb .low) [0x01] = .ok .c1)
    ∧ (decode defaultConfig (.nb .high) [0x23] = .ok .c2 ∧ decode defaultConfig (.nb .low) [0x23] = .ok .c3)
    ∧ (decode defaultConfig (.nb .high) [0x45] = .ok .c4 ∧ decode defaultConfig (.nb .low) [0x45] = .ok .c5)
    ∧ (decode defaultConfig (.nb .high) [0x67] = .ok .c6 ∧ decode defaultConfig (.nb .low) [0x67] = .ok .c7)
    ∧ (decode defaultConfig (.nb .high) [0x89] = .ok .c8 ∧ decode defaultConfig (.nb .low) [0x89] = .ok .c9)
    ∧ (decode defaultConfig (.nb .high) [0xAB] = .ok .cA ∧ decode defaultConfig (.nb .low) [0xAB] = .ok .cB)
    ∧ (decode defaultConfig (.nb .high) [0xCD] = .ok .cC ∧ decode defaultConfig (.nb .low) [0xCD] = .ok .cD)
    ∧ (decode defaultConfig (.nb .high) [0xEF] = .ok .cE ∧ decode defaultConfig (.nb .low) [0xEF] = .ok .cF) := by
  decide

/-- R82's `match` words, and a 4-bit code's. -/
theorem test_table_words :
    decodeTableWord 64 0x0000000000000000 = some (.akey 0) ∧ decodeTableWord 64 0x0000000100000000 = some (.apred 0)
    ∧ decodeTableWord 64 0x0001000000000000 = some (.vkey 0) ∧ decodeTableWord 64 0x0001000100000000 = some (.vpred 0)
    ∧ decodeTableWord 64 0x0001000200000000 = some (.vhold 0) ∧ decodeTableWord 4 0xC = some .cC
    ∧ decodeTableWord 4 16 = none := by decide

/-! ### HDR -/

/-- T1, T3: a good header starts the walk at 60. -/
theorem test_hdr_ok :
    step (started headerP1)
      = .next { started headerP1 with runState := .walk, pc := 60, hdr := fieldsP1, hdrValid := true } := by
  rfl

/-- T2, T12, T13, T14: a bad tag is `MalformedHeader`, a short buffer `OutOfBounds`, the tag good or bad. -/
theorem test_hdr_faults :
    faultOf (started (0x49 :: headerP1.drop 1)) = some (.fault, some ⟨.malformedHeader, 0, 0⟩)
    ∧ faultOf (started (headerP1.take 59)) = some (.fault, some ⟨.outOfBounds, 0, 0⟩)
    ∧ faultOf (started (0x00 :: (headerP1.take 59).drop 1)) = some (.fault, some ⟨.outOfBounds, 0, 0⟩)
    ∧ faultOf (started []) = some (.fault, some ⟨.outOfBounds, 0, 0⟩) := by decide

/-- T10: the last of the seven trailing bytes is part of the tag. -/
theorem test_hdr_tag_last_byte :
    faultOf (started (headerP1.set 15 0x01)) = some (.fault, some ⟨.malformedHeader, 0, 0⟩) := by decide

/-! ### Records -/

/-- T30, T33, T34, T35: the seed's sample and index, from any carried state; three samples counted, one produced. -/
theorem test_akey_seeds :
    seedOf (walkAt false 123 45 [0, 0, 0, 0, 0, 0, 0, 7, 0, 0, 0, 3, 0x12, 0x34, 0x0F]) = some (4608, 52, [4608], 2)
    ∧ seedOf (walkAt false 0 0 [0, 0, 0, 0, 0, 0, 0, 6, 0, 0, 0, 1, 0x7F, 0x80]) = some (32640, 0, [32640], 0)
    ∧ seedOf (walkAt false 0 0 [0, 0, 0, 0, 0, 0, 0, 6, 0, 0, 0, 1, 0xFF, 0x80]) = some (-128, 0, [-128], 0)
    ∧ seedOf (walkAt false 0 0 [0, 0, 0, 0, 0, 0, 0, 6, 0, 0, 0, 1, 0x12, 0xB4]) = some (4736, 52, [4736], 0)
    ∧ seedOf (walkAt false 0 0 [0, 0, 0, 0, 0, 0, 0, 6, 0, 0, 0, 1, 0x00, 0xD8]) = some (128, 88, [128], 0) := by
  refine ⟨?_, ?_, ?_, ?_, ?_⟩ <;> decide

/-- T76: with `DUP` each sample goes to two adjacent cells, and `REM` counts one. -/
theorem test_akey_dup :
    seedOf (walkAt true 0 0 [0, 0, 0, 0, 0, 0, 0, 7, 0, 0, 0, 3, 0x12, 0x34, 0x0F])
      = some (4608, 52, [4608, 4608], 2) := by decide

/-- T38, T39, T88, T89, T91: the faults of AKEY's first step. -/
theorem test_akey_faults :
    faultOf (walkAt false 0 0 [0, 0, 0, 0, 0, 0, 0, 6, 0, 0, 0, 1, 0x00, 0x59]) = some (.fault, some ⟨.stepIndexRange, 0, 60⟩)
    ∧ faultOf (walkAt false 0 0 [0, 0, 0, 0, 0, 0, 0, 6, 0, 0, 0, 1, 0xFF, 0xFF])
      = some (.fault, some ⟨.stepIndexRange, 0, 60⟩)
    ∧ faultOf (walkAt false 0 0 [0, 0, 0, 0, 0, 0, 0, 4, 0, 0, 0, 0]) = some (.fault, some ⟨.badSampleCount, 0, 60⟩)
    ∧ faultOf (walkAt false 0 0 [0, 0, 0, 0, 0, 0, 0, 5, 0, 0, 0, 1, 0x12]) = some (.fault, some ⟨.outOfBounds, 0, 60⟩)
    ∧ faultOf (walkAt false 0 0 [0, 0, 0, 0, 0, 0, 0, 3, 0, 0, 0]) = some (.fault, some ⟨.outOfBounds, 0, 60⟩) := by
  decide

/-- R196's example, first step: APRED takes the carried state and emits nothing yet. -/
theorem test_apred_setup :
    seedOf (walkAt false 2936 59 [0, 0, 0, 1, 0, 0, 0, 5, 0, 0, 0, 1, 0x70]) = some (2936, 59, [], 1) := by decide

/-- T29c, T97: the sample count is unsigned. -/
theorem test_apred_count_unsigned :
    seedOf (walkAt false 0 0 [0, 0, 0, 1, 0, 0, 0, 5, 0xFF, 0xFF, 0xFF, 0xFF, 0x00]) = some (0, 0, [], 4294967295) := by
  decide

/-- R197's example: ten bytes skipped, one video record counted. -/
theorem test_vkey : countsOf (walkAt false 0 0 [0, 1, 0, 0, 0, 0, 0, 2, 0xAA, 0xBB]) = some (0, 1, 0, 1, 70) := by decide

/-- R198's example. -/
theorem test_vpred : countsOf (walkAt false 0 0 [0, 1, 0, 1, 0, 0, 0, 0]) = some (0, 1, 0, 1, 68) := by decide

/-- R199's example. -/
theorem test_vhold : countsOf (walkAt false 0 0 [0, 1, 0, 2, 0, 0, 0, 0]) = some (0, 1, 0, 1, 68) := by decide

/-- T80 to T86, T29a: the faults of a fetch, in their priority. -/
theorem test_fetch_faults :
    faultOf (walkAt false 0 0 [0, 0, 0, 0, 0, 0, 0]) = some (.fault, some ⟨.outOfBounds, 0, 60⟩)
    ∧ faultOf (walkAt false 0 0 [0, 2, 0, 0, 0, 0, 0, 0x64]) = some (.fault, some ⟨.unknownType, 0, 60⟩)
    ∧ faultOf (walkAt false 0 0 [0, 0, 0, 2, 0, 0, 0, 0]) = some (.fault, some ⟨.unknownFormat, 0, 60⟩)
    ∧ faultOf (walkAt false 0 0 [0, 1, 0, 3, 0, 0, 0, 0]) = some (.fault, some ⟨.unknownFormat, 0, 60⟩)
    ∧ faultOf (walkAt false 0 0 [0, 1, 0, 0, 0, 0, 0, 3, 0, 0]) = some (.fault, some ⟨.outOfBounds, 0, 60⟩)
    ∧ faultOf (walkAt false 0 0 [0, 0, 0, 0, 0xFF, 0xFF, 0xFF, 0xFF]) = some (.fault, some ⟨.outOfBounds, 0, 60⟩) := by
  decide

/-- T90: the end of an APRED record of 0 samples: counted, with an empty slice and the carried state. -/
theorem test_complete_empty :
    step (inRecord 7 3 0 [])
      = .next { inRecord 7 3 0 [] with seq := .fetch, nAudio := 1, audioBytes := 4, recIndex := 1, pc := 72,
                                       recOut := [(0, 0)] } := by
  rfl

/-- R200: the loop test at the end of the buffer. -/
theorem test_done : faultOf (walkAt false 0 0 []) = some (.done, none) := by decide

/-! ### The codes: T40 to T47 -/

theorem test_c0 : codeResult .c0 4608 52 = some (4740, 51, [4740]) ∧ codeResult .c0 0 0 = some (0, 0, [0]) := by decide
theorem test_c1 : codeResult .c1 4608 52 = some (5005, 51, [5005]) ∧ codeResult .c1 0 0 = some (1, 0, [1]) := by decide
theorem test_c2 : codeResult .c2 4608 52 = some (5270, 51, [5270]) ∧ codeResult .c2 0 0 = some (3, 0, [3]) := by decide
theorem test_c3 : codeResult .c3 4608 52 = some (5535, 51, [5535]) ∧ codeResult .c3 0 0 = some (4, 0, [4]) := by decide
theorem test_c4 : codeResult .c4 4608 52 = some (5800, 54, [5800]) ∧ codeResult .c4 0 87 = some (32767, 88, [32767]) := by
  decide
theorem test_c5 : codeResult .c5 4608 52 = some (6065, 56, [6065]) ∧ codeResult .c5 0 88 = some (32767, 88, [32767]) := by
  decide
theorem test_c6 : codeResult .c6 4608 52 = some (6330, 58, [6330]) ∧ codeResult .c6 (-100) 30 = some (111, 36, [111]) := by
  decide
theorem test_c7 : codeResult .c7 4608 52 = some (6595, 60, [6595]) ∧ codeResult .c7 32767 88 = some (32767, 88, [32767]) := by
  decide
theorem test_c8 : codeResult .c8 4608 52 = some (4476, 51, [4476]) ∧ codeResult .c8 0 0 = some (0, 0, [0]) := by decide
theorem test_c9 : codeResult .c9 4608 52 = some (4211, 51, [4211]) ∧ codeResult .c9 (-100) 30 = some (-148, 29, [-148]) := by
  decide
theorem test_cA : codeResult .cA 4608 52 = some (3946, 51, [3946]) ∧ codeResult .cA 0 88 = some (-20478, 87, [-20478]) := by
  decide
theorem test_cB : codeResult .cB 4608 52 = some (3681, 51, [3681]) ∧ codeResult .cB 0 0 = some (-4, 0, [-4]) := by decide
theorem test_cC : codeResult .cC 4608 52 = some (3416, 54, [3416]) ∧ codeResult .cC 0 88 = some (-32768, 88, [-32768]) := by
  decide
theorem test_cD : codeResult .cD 4608 52 = some (3151, 56, [3151]) ∧ codeResult .cD 0 0 = some (-8, 4, [-8]) := by decide
theorem test_cE : codeResult .cE 4608 52 = some (2886, 58, [2886]) ∧ codeResult .cE (-100) 30 = some (-311, 36, [-311]) := by
  decide
theorem test_cF :
    codeResult .cF 4608 52 = some (2621, 60, [2621]) ∧ codeResult .cF (-32768) 88 = some (-32768, 88, [-32768]) := by
  decide

/-- T50, T51: the high nibble is the earlier code. -/
theorem test_nibble_order :
    seedOf (inRecord 4608 52 2 [0x0F]) = some (4740, 51, [4740], 1)
    ∧ seedOf (inRecord 4608 52 2 [0xF0]) = some (2621, 60, [2621], 1)
    ∧ seedOf { inRecord 4740 51 2 [0x0F] with phase := .low, rem := 1 } = some (2936, 59, [2936], 0) := by decide

/-- T87, T96: a code byte past the window is `OutOfBounds`, whatever follows the record. -/
theorem test_code_outside :
    faultOf (inRecord 0 0 1 []) = some (.fault, some ⟨.outOfBounds, 0, 60⟩)
    ∧ faultOf { inRecord 0 0 1 [] with bufLen := 100 } = some (.fault, some ⟨.outOfBounds, 0, 60⟩) := by decide

/-! ### A placed word runs first -/

/-- The instruction of a table word is what the next step fetches, from reset. -/
theorem test_placed_words :
    fetch (State.reset.withFetchWord 64 0x0001000200000000) = .run (.vhold 0) (State.reset.withFetchWord 64 0x0001000200000000)
    ∧ fetch (State.reset.withFetchWord 64 0) = .run (.akey 0) (State.reset.withFetchWord 64 0)
    ∧ fetch (State.reset.withFetchWord 4 0xB) = .run .cB (advanceNibble (State.reset.withFetchWord 4 0xB)) :=
  ⟨rfl, rfl, rfl⟩

/-! ### Witnesses: states and operands that meet the obligations' hypotheses -/

/-- An initial index at and just above R7's bound, and the two ways a start is out of place. -/
theorem witness_StartLoadsTheInput :
    (State.reset.runState = .idle ∧ State.reset.started = false ∧ (88 : BitVec 8).toNat ≤ 88 ∧ 88 < (89 : BitVec 8).toNat)
    ∧ (walkAt false 0 0 []).runState ≠ .idle ∧ (started []).started = true := by decide

/-- A run that ended in `DONE` after one video record, its record registers no longer valid. -/
def doneAfterVideo : State := { walkAt false 0 0 [] with runState := .done, recIndex := 1, nVideo := 1 }

/-- A run that ended in `FAULT` on the second record, the first one an audio record. -/
def faultAfterAudio : State :=
  { inRecord 0 0 1 [] with
    runState := .fault, recIndex := 1, nAudio := 1, audioBytes := 4, recOut := [(0, 0)],
    fault := some ⟨.outOfBounds, 1, 60⟩ }

/-- For each clause a state: in `IDLE`, `WALK`, `DONE` and `FAULT`; header registers latched and not; record registers valid,
never written, and written by an earlier record; before and after a fault. -/
theorem witness_HostReadsOnlyAfterTheRun :
    State.reset.runState = .idle ∧ (walkAt false 0 0 []).runState = .walk
    ∧ (doneAfterVideo.runState = .done ∧ doneAfterVideo.hdrValid = true ∧ doneAfterVideo.recValid = false
      ∧ 0 < doneAfterVideo.recIndex ∧ doneAfterVideo.nAudio = 0 ∧ doneAfterVideo.samplesValid = false
      ∧ doneAfterVideo.fault = none)
    ∧ (faultAfterAudio.runState = .fault ∧ faultAfterAudio.recValid = true ∧ faultAfterAudio.kindValid = true
      ∧ faultAfterAudio.samplesValid = true ∧ 0 < faultAfterAudio.nAudio
      ∧ faultAfterAudio.fault = some ⟨.outOfBounds, 1, 60⟩)
    ∧ State.reset.hdrValid = false ∧ State.reset.recIndex = 0 ∧ State.reset.recValid = false
    ∧ State.reset.kindValid = false := by decide

/-- P1's channel count and sample rate after a run; in `DONE` no fault register holds a value (R200); after a fault the cause is
R210's code; a run that fetched no record has written no record register (D1). -/
theorem test_host_reads :
    hostReadReg (.header .channels) doneAfterVideo = .ok (some 1)
    ∧ hostReadReg (.header .samplesPerSec) doneAfterVideo = .ok (some 22050)
    ∧ hostReadReg .faultCause doneAfterVideo = .ok none ∧ hostReadReg .faultCause faultAfterAudio = .ok (some 4)
    ∧ hostReadReg .recType { doneAfterVideo with recIndex := 0 } = .error .noValue
    ∧ hostReadReg .recSamples doneAfterVideo = .error .noValue := by decide

theorem witness_DecodeOfEncode :
    defaultConfig.legal = true ∧ wellFormed defaultConfig (.hdr fieldsP1) = true
    ∧ wellFormed defaultConfig (.akey 0xFFFFFFFF) = true ∧ wellFormed defaultConfig .cF = true := by decide

theorem witness_EncodeOfDecodedRecordHeader :
    ([0, 1, 0, 2, 0xFF, 0xFF, 0xFF, 0xFF] : List Byte).length = 8
    ∧ decode defaultConfig .rh [0, 1, 0, 2, 0xFF, 0xFF, 0xFF, 0xFF] = .ok (.vhold 0xFFFFFFFF) := by decide

theorem witness_StepRunsTheDecodedInstruction :
    ((started headerP1).runState = .idle ∧ (started headerP1).started = true ∧ 60 ≤ (started headerP1).bufLen
      ∧ decode (started headerP1).cfg .ch ((started headerP1).input.readBytes 0 60) = .ok (.hdr fieldsP1))
    ∧ ((walkAt false 0 0 [0, 1, 0, 2, 0, 0, 0, 0]).seq = .fetch
      ∧ (walkAt false 0 0 [0, 1, 0, 2, 0, 0, 0, 0]).pc + 8 ≤ (walkAt false 0 0 [0, 1, 0, 2, 0, 0, 0, 0]).bufLen
      ∧ decode (walkAt false 0 0 [0, 1, 0, 2, 0, 0, 0, 0]).cfg .rh
          ((walkAt false 0 0 [0, 1, 0, 2, 0, 0, 0, 0]).input.readBytes 60 8) = .ok (.vhold 0))
    ∧ ((inRecord 0 0 1 [0x70]).seq = .decode ∧ 0 < (inRecord 0 0 1 [0x70]).rem
      ∧ (inRecord 0 0 1 [0x70]).inp + 1 ≤ (inRecord 0 0 1 [0x70]).winEnd
      ∧ (inRecord 0 0 1 [0x70]).inp + 1 ≤ (inRecord 0 0 1 [0x70]).bufLen
      ∧ decode (inRecord 0 0 1 [0x70]).cfg (.nb (inRecord 0 0 1 [0x70]).phase)
          ((inRecord 0 0 1 [0x70]).input.readBytes 72 1) = .ok .c7) := by decide

theorem witness_NextCodeTakesHighNibbleFirst :
    ((inRecord 0 0 2 [0x70]).runState = .walk ∧ (inRecord 0 0 2 [0x70]).seq = .decode ∧ 0 < (inRecord 0 0 2 [0x70]).rem)
    ∧ ((inRecord 0 0 2 [0x70]).inp + 1 ≤ (inRecord 0 0 2 [0x70]).winEnd ∧ (inRecord 0 0 2 [0x70]).winEnd ≤ 73
      ∧ (inRecord 0 0 2 [0x70]).bufLen = 73 ∧ (inRecord 0 0 2 [0x70]).phase = .high)
    ∧ ({ inRecord 0 0 2 [0x70] with phase := .low } : State).inp + 1 ≤ (inRecord 0 0 2 [0x70]).winEnd
    ∧ (inRecord 0 0 2 []).winEnd < (inRecord 0 0 2 []).inp + 1 := by decide

/-- Half-way through a byte. -/
theorem witness_NextCodeTakesHighNibbleFirst_low :
    BlockInv { inRecord 0 0 2 [0x70] with phase := .low, rem := 1, out := [11] } :=
  ⟨by decide, by decide, by decide, by decide, by decide⟩

theorem witness_HdrStartsTheWalk :
    (started headerP1).runState = .idle ∧ (started headerP1).pc = 0 ∧ 60 ≤ (started headerP1).bufLen
    ∧ fieldsP1.tag = 0x4856514D3220312E3000000000000000 := by decide

theorem witness_HeaderStepLatchesOrFaults :
    ((started headerP1).cfg.legal = true ∧ (started headerP1).runState = .idle ∧ (started headerP1).started = true
      ∧ (started headerP1).pc = 0 ∧ (started headerP1).recIndex = 0)
    ∧ (started (headerP1.take 59)).bufLen < 60 ∧ 60 ≤ (started headerP1).bufLen
    ∧ (started headerP1).bufLen ≤ 60 := by decide

theorem witness_VideoRecordsAreSkipped :
    (walkAt false 0 0 [0, 1, 0, 0, 0, 0, 0, 2, 0xAA, 0xBB]).runState = .walk
    ∧ (walkAt false 0 0 [0, 1, 0, 0, 0, 0, 0, 2, 0xAA, 0xBB]).seq = .fetch
    ∧ (walkAt false 0 0 [0, 1, 0, 0, 0, 0, 0, 2, 0xAA, 0xBB]).pc + 8 + (2 : Word32).toNat
      = (walkAt false 0 0 [0, 1, 0, 0, 0, 0, 0, 2, 0xAA, 0xBB]).bufLen := by decide

theorem witness_WindowOverrunFaults :
    (walkAt false 0 0 [0, 1, 0, 0, 0, 0, 0, 3, 0xAA, 0xBB]).runState = .walk
    ∧ (walkAt false 0 0 [0, 1, 0, 0, 0, 0, 0, 3, 0xAA, 0xBB]).bufLen + 1
      = (walkAt false 0 0 [0, 1, 0, 0, 0, 0, 0, 3, 0xAA, 0xBB]).pc + 8 + (3 : Word32).toNat
    ∧ Instr.vkey 3 ∈ [Instr.akey 3, .apred 3, .vkey 3, .vpred 3, .vhold 3]
    ∧ Instr.vkey 3 ∈ [Instr.vkey 3, .vpred 3, .vhold 3] := by decide

/-- AKEY's clauses, each at its boundary: size 3; count 0 at size 4; size 5; seed index 89; size 6 and seed index 88. -/
theorem witness_AkeyResetsFromItsSeed :
    (walkAt false 0 0 [0, 0, 0, 0, 0, 0, 0, 3, 0, 0, 0]).pc + 8 + 3 ≤ (walkAt false 0 0 [0, 0, 0, 0, 0, 0, 0, 3, 0, 0, 0]).bufLen
    ∧ beNat ((walkAt false 0 0 [0, 0, 0, 0, 0, 0, 0, 4, 0, 0, 0, 0]).input.readBytes 68 4) = 0
    ∧ beNat ((walkAt false 0 0 [0, 0, 0, 0, 0, 0, 0, 5, 0, 0, 0, 1, 0x12]).input.readBytes 68 4) = 1
    ∧ ((walkAt false 0 0 [0, 0, 0, 0, 0, 0, 0, 6, 0, 0, 0, 1, 0x12, 0x59]).input.read 73).toNat % 128 = 89
    ∧ ((walkAt false 0 0 [0, 0, 0, 0, 0, 0, 0, 6, 0, 0, 0, 1, 0x12, 0x58]).input.read 73).toNat % 128 = 88
    ∧ (walkAt false 0 0 [0, 0, 0, 0, 0, 0, 0, 6, 0, 0, 0, 1, 0x12, 0x58]).bufLen = 60 + 8 + 6 := by decide

/-- APRED's clauses: size 3, and size 4 with a count of 0. -/
theorem witness_ApredContinuesFromTheCarriedState :
    (walkAt false 0 0 [0, 0, 0, 1, 0, 0, 0, 3, 0, 0, 0]).bufLen = 60 + 8 + 3
    ∧ (walkAt false 0 0 [0, 0, 0, 1, 0, 0, 0, 4, 0, 0, 0, 0]).bufLen = 60 + 8 + 4
    ∧ (walkAt false 0 0 [0, 0, 0, 1, 0, 0, 0, 4, 0, 0, 0, 0]).runState = .walk
    ∧ (walkAt false 0 0 [0, 0, 0, 1, 0, 0, 0, 4, 0, 0, 0, 0]).seq = .fetch := by decide

theorem witness_RecordFetchFaults :
    ((walkAt false 0 0 [0, 0, 0, 0, 0, 0, 0]).pc < (walkAt false 0 0 [0, 0, 0, 0, 0, 0, 0]).bufLen
      ∧ (walkAt false 0 0 [0, 0, 0, 0, 0, 0, 0]).bufLen < (walkAt false 0 0 [0, 0, 0, 0, 0, 0, 0]).pc + 8)
    ∧ (walkAt false 0 0 [0, 2, 0, 0, 0, 0, 0, 0]).input.readBytes 60 8 = encodeRecHeader ⟨2, 0, 0⟩
    ∧ (walkAt false 0 0 [0, 0, 0, 2, 0, 0, 0, 0]).input.readBytes 60 8 = encodeRecHeader ⟨0, 2, 0⟩
    ∧ (walkAt false 0 0 [0, 1, 0, 3, 0, 0, 0, 0]).input.readBytes 60 8 = encodeRecHeader ⟨1, 3, 0⟩
    ∧ (2 : Half) ≠ defaultConfig.codeAudio ∧ (2 : Half) ≠ defaultConfig.codeVideo
    ∧ (2 : Half) ≠ defaultConfig.fmtAudioKeyframe ∧ (2 : Half) ≠ defaultConfig.fmtAudioPredict
    ∧ (3 : Half) ≠ defaultConfig.fmtVideoKeyframe ∧ (3 : Half) ≠ defaultConfig.fmtVideoPredict
    ∧ (3 : Half) ≠ defaultConfig.fmtVideoHold ∧ (1 : Half) ≠ defaultConfig.codeAudio := by decide

theorem witness_AudioRecordCompletes :
    (inRecord 7 3 0 []).runState = .walk ∧ (inRecord 7 3 0 []).seq = .decode ∧ (inRecord 7 3 0 []).rem = 0
    ∧ isAudio (inRecord 7 3 0 []).recKind = true := by decide

/-- For PositiveCodes and NegativeCodes: the lowest and the highest index. -/
theorem witness_Codes :
    (inRecord 0 0 1 [0]).runState = .walk ∧ (inRecord 0 0 1 [0]).seq = .decode ∧ 0 < (inRecord 0 0 1 [0]).rem
    ∧ (inRecord 0 0 1 [0]).cfg.legal = true ∧ (inRecord 0 0 1 [0]).wSi.toNat ≤ 88
    ∧ (inRecord 0 88 1 [0]).wSi.toNat = 88 ∧ (inRecord 0 88 1 [0]).cfg.legal = true := by decide

theorem witness_OutOfSequenceIsRefused :
    (walkAt false 0 0 []).runState ≠ .idle ∧ (walkAt false 0 0 []).pc ≠ 0 ∧ State.reset.runState ≠ .walk
    ∧ (inRecord 0 0 1 []).seq ≠ .fetch ∧ Instr.akey 0 ∈ [Instr.akey 0, .apred 0, .vkey 0, .vpred 0, .vhold 0]
    ∧ isCode .c0 = true ∧ (inRecord 0 0 0 []).rem = 0 ∧ (walkAt false 0 0 []).seq ≠ .decode
    ∧ (inRecord 0 89 1 []).cfg.stepTable.length ≤ (inRecord 0 89 1 []).wSi.toNat := by decide

/-- States that meet the invariant (EveryStepKeepsTheInvariant, StepsNeverStopUnderTheInvariant): waiting, between records, inside a record, at its end, ended. -/
theorem witness_BlockInv :
    BlockInv (started headerP1) ∧ BlockInv (walkAt true 0 88 [0, 0, 0, 0, 0, 0, 0, 7, 0, 0, 0, 3, 0x12, 0x34, 0x0F])
    ∧ BlockInv (inRecord 0 0 2 [0x0F]) ∧ BlockInv (inRecord 0 0 0 [])
    ∧ BlockInv { walkAt false 0 0 [] with runState := .done } := by
  refine ⟨?_, ?_, ?_, ?_, ?_⟩ <;> refine ⟨?_, ?_, ?_, ?_, ?_⟩ <;> decide

theorem witness_InvariantAfterStart :
    ∃ (s t : State), BlockInv s ∧ hostStart [0x48] true (some (0, 88)) s = .next t :=
  ⟨{ State.reset with ps := 0, si := 0 }, _, ⟨by decide, by decide, by decide, by decide, by decide⟩, rfl⟩

/-- For the statements over every step (EveryStepKeepsTheInvariant, StepsNeverStopUnderTheInvariant,
FaultEntryRecordsIndexAndOffset, FaultKeepsCompletedOutput, NotAudioIsNeverRaised, CursorOnlyMovesForward, InputIsNeverWritten,
OutputIsAppendOnly, CountersChangeOnlyAtCompletion, HeaderRegistersAreReadOnlyAfterHdr, HeaderRegistersInfluenceNothing):
steps from states that meet the invariant: one that moves; faults of a code, of an unmapped type, of a short fetch, in HDR. -/
theorem witness_Steps :
    (∃ t, BlockInv (walkAt false 0 0 [0, 1, 0, 2, 0, 0, 0, 0]) ∧ step (walkAt false 0 0 [0, 1, 0, 2, 0, 0, 0, 0]) = .next t
      ∧ t.runState ≠ .fault ∧ (walkAt false 0 0 [0, 1, 0, 2, 0, 0, 0, 0]).runState ≠ .idle
      ∧ (walkAt false 0 0 [0, 1, 0, 2, 0, 0, 0, 0]).fault = none)
    ∧ (∃ t, BlockInv (inRecord 0 0 1 []) ∧ step (inRecord 0 0 1 []) = .next t ∧ t.runState = .fault)
    ∧ (∃ t, BlockInv (walkAt false 0 0 [0, 2, 0, 0, 0, 0, 0, 0]) ∧ step (walkAt false 0 0 [0, 2, 0, 0, 0, 0, 0, 0]) = .next t
      ∧ t.runState = .fault ∧ t.recType ≠ defaultConfig.codeAudio)
    ∧ (∃ t, BlockInv (walkAt false 0 0 [0]) ∧ step (walkAt false 0 0 [0]) = .next t ∧ t.runState = .fault
      ∧ t.recValid = false)
    ∧ ∃ t, BlockInv (started []) ∧ (started []).runState = .idle ∧ step (started []) = .next t ∧ t.runState = .fault :=
  ⟨⟨_, ⟨by decide, by decide, by decide, by decide, by decide⟩, rfl, by decide, by decide, rfl⟩,
    ⟨_, ⟨by decide, by decide, by decide, by decide, by decide⟩, rfl, rfl⟩,
    ⟨_, ⟨by decide, by decide, by decide, by decide, by decide⟩, rfl, rfl, by decide⟩,
    ⟨_, ⟨by decide, by decide, by decide, by decide, by decide⟩, rfl, rfl, rfl⟩,
    ⟨_, ⟨by decide, by decide, by decide, by decide, by decide⟩, rfl, rfl, rfl⟩⟩

/-- The step that commits, and one that does not. -/
theorem witness_AdpcmStateChangesOnlyByCommit :
    (∃ t, step (inRecord 7 3 0 []) = .next t ∧ t.runState ≠ .fault)
    ∧ ∃ t, step (inRecord 7 3 1 [0]) = .next t ∧ t.runState ≠ .fault :=
  ⟨⟨_, rfl, by decide⟩, ⟨_, rfl, by decide⟩⟩

theorem witness_EveryRunTerminates :
    BlockInv (started headerP1) ∧ ((started headerP1).runState = .idle → (started headerP1).started = true)
    ∧ BlockInv (inRecord 0 0 2 [0x0F]) :=
  ⟨⟨by decide, by decide, by decide, by decide, by decide⟩, by decide, ⟨by decide, by decide, by decide, by decide, by decide⟩⟩

theorem witness_DoneAndFaultAreAbsorbing :
    ({ walkAt false 0 0 [] with runState := .done } : State).runState = .done
    ∧ ({ walkAt false 0 0 [] with runState := .fault } : State).runState = .fault := by decide

theorem witness_DoneExactlyAtTheEndOfTheBuffer :
    ((walkAt false 0 0 []).runState = .walk ∧ (walkAt false 0 0 []).seq = .fetch
      ∧ (walkAt false 0 0 []).bufLen = (walkAt false 0 0 []).pc)
    ∧ ∃ t, step (walkAt false 0 0 []) = .next t ∧ t.runState = .done :=
  ⟨by decide, ⟨_, rfl, rfl⟩⟩

theorem witness_NothingRunsBeforeStart : State.reset.runState = .idle ∧ State.reset.started = false := by decide

/-- The hypotheses of a whole record, on the record a state holds at 60. -/
abbrev recordReady (s : State) (k : RecKind) (z : Word32) : Prop :=
  BlockInv s ∧ s.runState = .walk ∧ s.seq = .fetch ∧ s.pc + 8 ≤ s.bufLen ∧ recordAt s s.pc k z

theorem recordReady_walkAt {dup : Bool} {p : Sample} {i : BitVec 8} {bytes : List Byte} {k : RecKind} {z : Word32}
    (hp : ParamsInv (walkAt dup p i bytes)) (hi : i.toNat ≤ siMax) (hb : 8 ≤ bytes.length)
    (hr : recordAt (walkAt dup p i bytes) 60 k z) : recordReady (walkAt dup p i bytes) k z := by
  refine ⟨⟨hp, ⟨hi, by simp [walkAt, State.reset]⟩, ⟨by simp [walkAt], by simp [walkAt], fun _ => by
    simp [walkAt, fieldsP1, hdrSize], by simp [walkAt]⟩, ?_, ?_⟩, rfl, rfl, ?_, hr⟩
  · simp [LedgerInv, walkAt, State.reset, tiles, recEnd]
  · simp [RecordInv, walkAt, State.reset, recEnd]
  · simp only [walkAt]
    omega

/-- T29a, T88, T89, T91, T93, T94, T95: each clause of a whole keyframe record. -/
theorem witness_WholeKeyframeRecord :
    recordReady (walkAt false 0 0 [0, 0, 0, 0, 0xFF, 0xFF, 0xFF, 0xFF]) .audioKeyframe 0xFFFFFFFF
    ∧ recordReady (walkAt false 0 0 [0, 0, 0, 0, 0, 0, 0, 3, 0, 0, 0]) .audioKeyframe 3
    ∧ recordReady (walkAt false 0 0 [0, 0, 0, 0, 0, 0, 0, 4, 0, 0, 0, 0]) .audioKeyframe 4
    ∧ recordReady (walkAt false 0 0 [0, 0, 0, 0, 0, 0, 0, 5, 0, 0, 0, 1, 0x12]) .audioKeyframe 5
    ∧ recordReady (walkAt false 0 0 [0, 0, 0, 0, 0, 0, 0, 6, 0, 0, 0, 1, 0x12, 0x59]) .audioKeyframe 6
    ∧ (recordReady (walkAt false 0 0 [0, 0, 0, 0, 0, 0, 0, 7, 0, 0, 0, 4, 0x12, 0x34, 0x0F]) .audioKeyframe 7
      ∧ samplesAt (walkAt false 0 0 [0, 0, 0, 0, 0, 0, 0, 7, 0, 0, 0, 4, 0x12, 0x34, 0x0F]) 60 = 4
      ∧ (7 : Word32).toNat - 4 < 2 + 4 / 2)
    ∧ (recordReady (walkAt false 0 0 [0, 0, 0, 0, 0, 0, 0, 7, 0, 0, 0, 3, 0x12, 0x34, 0x0F]) .audioKeyframe 7
      ∧ samplesAt (walkAt false 0 0 [0, 0, 0, 0, 0, 0, 0, 7, 0, 0, 0, 3, 0x12, 0x34, 0x0F]) 60 = 3
      ∧ ¬ (7 : Word32).toNat - 4 < 2 + 3 / 2) := by
  refine ⟨?_, ?_, ?_, ?_, ?_, ⟨?_, ?_⟩, ?_, ?_⟩
  all_goals first
    | exact recordReady_walkAt (by decide) (by decide) (by decide) (by decide)
    | decide

/-- T88, T90, T96 and R196's example: each clause of a whole predict record. -/
theorem witness_WholePredictRecord :
    recordReady (walkAt false 0 0 [0, 0, 0, 1, 0, 0, 0, 1]) .audioPredict 1
    ∧ recordReady (walkAt false 0 0 [0, 0, 0, 1, 0, 0, 0, 3, 0, 0, 0]) .audioPredict 3
    ∧ (recordReady (walkAt false 0 0 [0, 0, 0, 1, 0, 0, 0, 5, 0, 0, 0, 3, 0x0F]) .audioPredict 5
      ∧ samplesAt (walkAt false 0 0 [0, 0, 0, 1, 0, 0, 0, 5, 0, 0, 0, 3, 0x0F]) 60 = 3)
    ∧ recordReady (walkAt false 0 0 [0, 0, 0, 1, 0, 0, 0, 4, 0, 0, 0, 0]) .audioPredict 4
    ∧ recordReady (walkAt false 2936 59 [0, 0, 0, 1, 0, 0, 0, 5, 0, 0, 0, 1, 0x70]) .audioPredict 5 := by
  refine ⟨?_, ?_, ⟨?_, ?_⟩, ?_, ?_⟩
  all_goals first
    | exact recordReady_walkAt (by decide) (by decide) (by decide) (by decide)
    | decide

/-- The source's S7 on the integers: the codes 0 and F from the seed 4608, 52. -/
theorem test_reference_s7 :
    refSamples defaultStepTable (4608, 52) [0x0, 0xF] = [4740, 2936]
    ∧ refFinal defaultStepTable (4608, 52) [0x0, 0xF] = (2936, 59) := by decide

/-- T92: a keyframe record of one sample, run to its end. -/
theorem witness_ResetRecordForgetsPriorState :
    ∃ t, recordReady (walkAt false 1 2 [0, 0, 0, 0, 0, 0, 0, 6, 0, 0, 0, 1, 0x12, 0x34]) .audioKeyframe 6
      ∧ (walkAt false 1 2 [0, 0, 0, 0, 0, 0, 0, 6, 0, 0, 0, 1, 0x12, 0x34]).cfg.codesDistinct = true
      ∧ samplesAt (walkAt false 1 2 [0, 0, 0, 0, 0, 0, 0, 6, 0, 0, 0, 1, 0x12, 0x34]) 60 = 1
      ∧ runFor (1 + 1) (walkAt false 1 2 [0, 0, 0, 0, 0, 0, 0, 6, 0, 0, 0, 1, 0x12, 0x34]) = .next t
      ∧ t.runState = .walk :=
  ⟨_, recordReady_walkAt (by decide) (by decide) (by decide) (by decide), by decide, by decide, rfl, rfl⟩

/-- T72: three codes in two bytes and two codes in one, against the five codes re-packed. -/
def twoRecords : State :=
  walkAt false 100 20 ([0, 0, 0, 1, 0, 0, 0, 6, 0, 0, 0, 3, 0x17, 0x3C] ++ [0, 0, 0, 1, 0, 0, 0, 5, 0, 0, 0, 2, 0x94])

/-- The same five codes in one record (T72). -/
def oneRecord : State := walkAt false 100 20 [0, 0, 0, 1, 0, 0, 0, 7, 0, 0, 0, 5, 0x17, 0x39, 0x40]

theorem witness_ContinuityAcrossRecords :
    recordReady twoRecords .audioPredict 6 ∧ recordAt twoRecords 74 .audioPredict 5 ∧ recordReady oneRecord .audioPredict 7
    ∧ (oneRecord.cfg = twoRecords.cfg ∧ oneRecord.dup = twoRecords.dup ∧ oneRecord.ps = twoRecords.ps
      ∧ oneRecord.si = twoRecords.si)
    ∧ (twoRecords.pc + 8 + (6 : Word32).toNat = 74 ∧ 74 + 8 + (5 : Word32).toNat ≤ twoRecords.bufLen
      ∧ oneRecord.pc + 8 + (7 : Word32).toNat ≤ oneRecord.bufLen)
    ∧ (samplesAt twoRecords 60 = 3 ∧ samplesAt twoRecords 74 = 2 ∧ samplesAt oneRecord 60 = 5)
    ∧ (4 + (3 + 1) / 2 ≤ (6 : Word32).toNat ∧ 4 + (2 + 1) / 2 ≤ (5 : Word32).toNat
      ∧ 4 + (3 + 2 + 1) / 2 ≤ (7 : Word32).toNat)
    ∧ codesFrom oneRecord.input 72 5 = codesFrom twoRecords.input 72 3 ++ codesFrom twoRecords.input 86 2 := by
  refine ⟨recordReady_walkAt (by decide) (by decide) (by decide) (by decide), ?_,
    recordReady_walkAt (by decide) (by decide) (by decide) (by decide), ?_, ?_, ?_, ?_, ?_⟩ <;> decide

/-- U6: the same record with other unread input: a video payload; the low nibble of an odd code count with an excess byte; an
excess byte after a keyframe record's codes. -/
theorem witness_UnreadBytesHaveNoEffect :
    (recordReady (walkAt false 0 0 [0, 1, 0, 0, 0, 0, 0, 2, 0xAA, 0xBB]) .videoKeyframe 2
      ∧ (walkAt false 0 0 [0, 1, 0, 0, 0, 0, 0, 2, 0xAA, 0xBB]).cfg.codesDistinct = true
      ∧ RecKind.videoKeyframe ∈ [RecKind.videoKeyframe, .videoPredict, .videoHold]
      ∧ (Memory.ofBytes 60 [0, 1, 0, 0, 0, 0, 0, 2, 0x11, 0x22]).readBytes 60 8
        = (walkAt false 0 0 [0, 1, 0, 0, 0, 0, 0, 2, 0xAA, 0xBB]).input.readBytes 60 8
      ∧ ∃ t, step (walkAt false 0 0 [0, 1, 0, 0, 0, 0, 0, 2, 0xAA, 0xBB]) = .next t)
    ∧ (recordReady (walkAt false 2936 59 [0, 0, 0, 1, 0, 0, 0, 6, 0, 0, 0, 1, 0x70, 0x55]) .audioPredict 6
      ∧ samplesAt (walkAt false 2936 59 [0, 0, 0, 1, 0, 0, 0, 6, 0, 0, 0, 1, 0x70, 0x55]) 60 = 1
      ∧ (Memory.ofBytes 60 [0, 0, 0, 1, 0, 0, 0, 6, 0, 0, 0, 1, 0x7F, 0x66]).readBytes 60 12
        = (walkAt false 2936 59 [0, 0, 0, 1, 0, 0, 0, 6, 0, 0, 0, 1, 0x70, 0x55]).input.readBytes 60 12
      ∧ codesFrom (Memory.ofBytes 60 [0, 0, 0, 1, 0, 0, 0, 6, 0, 0, 0, 1, 0x7F, 0x66]) 72 1
        = codesFrom (walkAt false 2936 59 [0, 0, 0, 1, 0, 0, 0, 6, 0, 0, 0, 1, 0x70, 0x55]).input 72 1
      ∧ ∃ t, runFor (1 + 2) (walkAt false 2936 59 [0, 0, 0, 1, 0, 0, 0, 6, 0, 0, 0, 1, 0x70, 0x55]) = .next t)
    ∧ recordReady (walkAt false 0 0 [0, 0, 0, 0, 0, 0, 0, 7, 0, 0, 0, 1, 0x12, 0x34, 0x55]) .audioKeyframe 7
    ∧ samplesAt (walkAt false 0 0 [0, 0, 0, 0, 0, 0, 0, 7, 0, 0, 0, 1, 0x12, 0x34, 0x55]) 60 = 1
    ∧ (Memory.ofBytes 60 [0, 0, 0, 0, 0, 0, 0, 7, 0, 0, 0, 1, 0x12, 0x34, 0x66]).readBytes 60 14
      = (walkAt false 0 0 [0, 0, 0, 0, 0, 0, 0, 7, 0, 0, 0, 1, 0x12, 0x34, 0x55]).input.readBytes 60 14
    ∧ ∃ t, runFor (1 + 1) (walkAt false 0 0 [0, 0, 0, 0, 0, 0, 0, 7, 0, 0, 0, 1, 0x12, 0x34, 0x55]) = .next t := by
  refine ⟨⟨?_, by decide, by decide, by decide, _, rfl⟩, ⟨?_, by decide, by decide, by decide, _, rfl⟩, ?_, by decide,
    by decide, _, rfl⟩ <;> exact recordReady_walkAt (by decide) (by decide) (by decide) (by decide)

/-- Waiting for a start; started; walking; ended in each way. -/
theorem witness_RunStateIsNotReadDuringARun :
    (State.reset.runState = .idle ∧ State.reset.started = false)
    ∧ ((started []).runState = .idle ∧ (started []).started = true) ∧ (walkAt false 0 0 []).runState = .walk
    ∧ doneAfterVideo.runState = .done ∧ faultAfterAudio.runState = .fault := by decide

end Sys2Proof.Tests
end

/-! ## The state: reset, the cursor, the counters, the header registers (10_state.md)

What a step does to the cursor and the ledger is said once (`StepCase.progress`), and that the operations commute with a
change of the header registers' contents is said once for each operation. -/

namespace Sys2Proof.Machine

/-! ### Reset and the ended states -/

/-- Settles O29, from what a step of an ended run does. -/
theorem doneAndFaultAreAbsorbing : Obligations.DoneAndFaultAreAbsorbing := fun _ h => step_ended h

/-- The open initial step index loses nothing in its 8-bit register (R23). -/
theorem reset_si_toNat : State.reset.si.toNat = Config.initSi.val :=
  (BitVec.toNat_ofNat ..).trans (Nat.mod_eq_of_lt (Nat.lt_trans Config.initSi.isLt (by decide)))

theorem defaultConfig_legal : defaultConfig.legal = true := by decide

/-- Settles O24, by the reset values of each part of the invariant. -/
theorem invariantAtReset : Obligations.InvariantAtReset := by
  have hparams : ParamsInv State.reset := ⟨defaultConfig_legal, wf_nil, by simp [State.reset], by decide⟩
  have hindex : IndexInv State.reset := by
    refine ⟨?_, by decide⟩
    rw [reset_si_toNat]
    exact Nat.le_of_lt_succ Config.initSi.isLt
  have hcursor : CursorInv State.reset := by simp [CursorInv, State.reset]
  have hledger : LedgerInv State.reset := by simp [LedgerInv, State.reset, recEnd, tiles]
  have hrecord : RecordInv State.reset := by simp [RecordInv, State.reset]
  exact ⟨hparams, hindex, hcursor, hledger, hrecord⟩

/-- Settles O1: the values are the fields of `State.reset`; the reads follow from the bits beside the registers. -/
theorem resetLeavesTheSpecsValues : Obligations.ResetLeavesTheSpecsValues := by
  have hrec : ∀ r ∈ [HostReg.recType, .recFormat, .recSize, .recKind, .winEnd, .recSamples],
      regValue State.reset r = .error .noValue := by
    simp [regValue, State.reset, anyRecord, anyAudio]
  have hfault : ∀ r ∈ [HostReg.faultCause, .faultRec, .faultOff], regValue State.reset r = .ok none := by
    simp [regValue, faultReg, State.reset]
  exact ⟨rfl, rfl, rfl, reset_si_toNat, rfl, rfl, rfl, rfl, rfl, rfl, rfl, rfl, fun _ => rfl, hrec, hfault, rfl,
    indexDelta_eq⟩

/-! ### The cursor and the ledger -/

/-- The four counters and `REC_OUT` are as they were (R30, R33). -/
structure SameLedger (s t : State) : Prop where
  recIndex : t.recIndex = s.recIndex
  nAudio : t.nAudio = s.nAudio
  nVideo : t.nVideo = s.nVideo
  audioBytes : t.audioBytes = s.audioBytes
  recOut : t.recOut = s.recOut

/-- The step from `s` completes a record, `u` being the state just before Complete: it has the ledger of `s`, and under the
invariant its window ends in the buffer, 8 and `REC_SIZE` bytes after the cursor of `s` (R192, R193). -/
structure Completing (s u : State) : Prop where
  walk : s.runState = .walk
  ledger : SameLedger s u
  window : BlockInv s → u.winEnd = s.pc + recHdrSize + u.recSize.toNat ∧ u.winEnd ≤ s.bufLen

@[simp] theorem kindHeader_size (cfg : Config) (k : RecKind) (z : Word32) : (kindHeader cfg k z).size = z := by
  cases k <;> rfl

theorem rejectRecord_pc (h : RecHeader) (r : Reject) (s : State) : (rejectRecord h r s).pc = s.pc := by
  unfold rejectRecord; split <;> rfl

theorem rejectRecord_ledger (h : RecHeader) (r : Reject) (s : State) : SameLedger s (rejectRecord h r s) := by
  unfold rejectRecord; split <;> exact ⟨rfl, rfl, rfl, rfl, rfl⟩

theorem rejectRecord_hdr (h : RecHeader) (r : Reject) (s : State) :
    (rejectRecord h r s).hdr = s.hdr ∧ (rejectRecord h r s).hdrValid = s.hdrValid := by
  unfold rejectRecord; split <;> exact ⟨rfl, rfl⟩

theorem code_ledger (c : Code) (step : Half) (s : State) :
    SameLedger s (countSample (afterCode c step (advanceNibble s))) := by
  constructor <;> simp [afterCode]

/-- A record entered with its payload in the buffer (R193). -/
theorem Completing.enterRecord {s : State} {k : RecKind} {z : Word32} (hr : s.runState = .walk)
    (hw : s.pc + recHdrSize + z.toNat ≤ s.bufLen) : Completing s (enterRecord k z s) :=
  ⟨hr, ⟨rfl, rfl, rfl, rfl, rfl⟩, fun _ => ⟨by simp, hw⟩⟩

/-- An audio record whose samples are all produced: the invariant knows its window (R149). -/
theorem Completing.commit {s : State} (hr : s.runState = .walk) (hs : s.seq = .decode) : Completing s (commit s) := by
  refine ⟨hr, ⟨rfl, rfl, rfl, rfl, rfl⟩, fun ⟨_, _, _, _, _, hdecode⟩ => ?_⟩
  obtain ⟨-, hwin, hbuf, -⟩ := hdecode ⟨hr, hs⟩
  exact ⟨hwin, hbuf⟩

/-- What a step does to the cursor and the ledger: it leaves both, or HDR moves the cursor from 0 to 0x3C, or a record
completes (R24, R110, R192). -/
inductive Progress (s t : State) : Prop
  | stays : SameLedger s t → t.pc = s.pc → Progress s t
  | header : SameLedger s t → s.runState = .idle → s.pc = 0 → t.pc = hdrSize → Progress s t
  | completes (u : State) : Completing s u → t = complete u → Progress s t

theorem StepCase.progress {s t : State} (h : StepCase s t) : Progress s t := by
  cases h with
  | ended | waiting | headerShort | headerBad | finished | recordShort | videoOver | akey | apred | codeOutside =>
    exact .stays ⟨rfl, rfl, rfl, rfl, rfl⟩ rfl
  | headerOk _ hr hp => exact .header ⟨rfl, rfl, rfl, rfl, rfl⟩ hr hp rfl
  | rejected r => exact .stays (rejectRecord_ledger _ r s) (rejectRecord_pc _ r s)
  | video k z hr _ _ _ _ hw => exact .completes _ (.enterRecord hr hw) rfl
  | audioFault k z c u _ _ _ _ _ _ hu =>
    obtain rfl | ⟨a, rfl⟩ := hu <;> exact .stays ⟨rfl, rfl, rfl, rfl, rfl⟩ rfl
  | finish hr hs => exact .completes _ (.commit hr hs) rfl
  | code step' => exact .stays (code_ledger _ _ s) (advanceNibble_pc s)

/-- Settles O33: by `StepCase.progress`, the window of a completing record being the invariant's. -/
theorem cursorOnlyMovesForward : Obligations.CursorOnlyMovesForward := by
  intro s t hinv hstep
  cases (step_cases hstep).progress with
  | stays _ hpc => exact .inl hpc
  | header _ hr hp hpc => exact .inr (.inl ⟨hr, hp, hpc⟩)
  | completes u hu ht =>
    obtain ⟨hend, hbuf⟩ := hu.window hinv
    subst ht
    refine .inr (.inr ⟨hu.walk, ?_, ?_, ?_⟩)
    · simpa [recHdrSize] using hend
    · simpa using hbuf
    · simpa using hu.ledger.recIndex

/-- Settles O37: by `StepCase.progress`, the kind of the completing record deciding which counters move. -/
theorem countersChangeOnlyAtCompletion : Obligations.CountersChangeOnlyAtCompletion := by
  intro s t hstep
  cases (step_cases hstep).progress with
  | stays h => exact .inl ⟨h.recIndex, h.nAudio, h.nVideo, h.audioBytes, h.recOut⟩
  | header h => exact .inl ⟨h.recIndex, h.nAudio, h.nVideo, h.audioBytes, h.recOut⟩
  | completes u hu ht =>
    obtain ⟨hi, ha, hv, hb, ho⟩ := hu.ledger
    subst ht
    cases hk : isAudio u.recKind with
    | true => exact .inr (.inl (by simp [hk, hi, ha, hv, hb, ho]))
    | false => exact .inr (.inr (by simp [hk, hi, ha, hv, hb, ho]))

/-! ### The header registers -/

/-- Settles O39: only HDR latches, and it runs in `IDLE`. -/
theorem headerRegistersAreReadOnlyAfterHdr : Obligations.HeaderRegistersAreReadOnlyAfterHdr := by
  intro s t hidle hstep
  cases step_cases hstep with
  | waiting hr | headerShort hr | headerOk _ hr | headerBad _ hr => exact absurd hr hidle
  | ended | finished | recordShort | videoOver | akey | apred | codeOutside => exact ⟨rfl, rfl⟩
  | rejected r => exact rejectRecord_hdr _ r s
  | video k z => exact ⟨complete_hdr _, complete_hdrValid _⟩
  | audioFault k z c u _ _ _ _ _ _ hu =>
    obtain rfl | ⟨a, rfl⟩ := hu <;> exact ⟨rfl, rfl⟩
  | finish => exact ⟨complete_hdr _, complete_hdrValid _⟩
  | code step' => exact ⟨advanceNibble_hdr s, advanceNibble_hdrValid s⟩

/-- `s` with other contents in its header registers (R28). -/
def withHdr (h : Header) (s : State) : State := { s with hdr := h }

section WithHdr

variable (h : Header) (s : State)

theorem rejectRecord_withHdr (g : RecHeader) (r : Reject) :
    rejectRecord g r (withHdr h s) = withHdr h (rejectRecord g r s) := by
  have hcfg : (withHdr h s).cfg = s.cfg := rfl
  unfold rejectRecord
  rw [hcfg]
  split <;> rfl

theorem complete_withHdr : complete (withHdr h s) = withHdr h (complete s) := by
  have hkind : (withHdr h s).recKind = s.recKind := rfl
  unfold complete
  rw [hkind]
  split <;> rfl

theorem advanceNibble_withHdr : advanceNibble (withHdr h s) = withHdr h (advanceNibble s) := by
  have hphase : (withHdr h s).phase = s.phase := rfl
  unfold advanceNibble
  rw [hphase]
  split <;> rfl

theorem seedStep_withHdr (b0 b1 : Byte) : seedStep b0 b1 (withHdr h s) = withHdr h (seedStep b0 b1 s) := by
  unfold seedStep
  split <;> rfl

theorem memReadW_withHdr (a n : Nat) : memReadW (withHdr h s) a n = memReadW s a n := rfl

theorem resetStep_withHdr : resetStep (withHdr h s) = withHdr h (resetStep s) := by
  have hrem : (withHdr h s).rem = s.rem := rfl
  have hinp : (withHdr h s).inp = s.inp := rfl
  unfold resetStep
  rw [hrem, hinp, memReadW_withHdr, memReadW_withHdr]
  split
  · rfl
  · split
    · exact seedStep_withHdr h s _ _
    · rfl

end WithHdr

/-- Everything a video record can do, from the walker between records (R193, R197 to R199). -/
theorem videoRecord_eq {k : RecKind} {z : Word32} {s : State} (hr : s.runState = .walk) (hs : s.seq = .fetch) :
    videoRecord k z s = .next (if s.pc + recHdrSize + z.toNat ≤ s.bufLen then complete (enterRecord k z s)
      else raise .outOfBounds (enterRecord k z s)) := by
  unfold videoRecord
  rw [if_pos (recordDue_iff.2 ⟨hr, hs⟩)]
  simp only [windowFits_iff]
  split <;> rfl

/-- A record operation answers the same with other header contents, but for those contents (R28). -/
theorem exec_kindInstr_withHdr {k : RecKind} {z : Word32} {s t : State} (h : Header) (hr : s.runState = .walk)
    (hs : s.seq = .fetch) (he : exec (kindInstr k z) s = .next t) :
    exec (kindInstr k z) (withHdr h s) = .next (withHdr h t) := by
  have hbuf : (withHdr h s).bufLen = s.bufLen := rfl
  have hpc : (withHdr h s).pc = s.pc := rfl
  rw [exec_kindInstr] at he ⊢
  cases hk : isAudio k with
  | true =>
    rw [hk, if_pos rfl, audioRecord_eq hk hr hs] at he
    cases he
    rw [if_pos rfl, audioRecord_eq (s := withHdr h s) hk hr hs, hbuf, hpc]
    refine congrArg _ ?_
    split
    · rfl
    · split
      · rfl
      · split
        · exact resetStep_withHdr h (setupDecode (withSamples k z s))
        · rfl
  | false =>
    rw [hk, if_neg Bool.false_ne_true, videoRecord_eq hr hs] at he
    cases he
    rw [if_neg Bool.false_ne_true, videoRecord_eq (s := withHdr h s) hr hs, hbuf, hpc]
    refine congrArg _ ?_
    split
    · exact complete_withHdr h (enterRecord k z s)
    · rfl

/-- A code that runs answers the same with other header contents, but for those contents (R28). -/
theorem codeStep_withHdr {c : Code} {s t : State} (h : Header) (he : codeStep c s = .next t) :
    codeStep c (withHdr h s) = .next (withHdr h t) := by
  obtain ⟨hr, hs, hrem, step, hlook, rfl⟩ := codeStep_next he
  exact codeStep_eq (s := withHdr h s) hr hs hrem hlook

/-- Between records (R28, R190). -/
theorem step_withHdr_between_records {s t : State} (h : Header) (hr : s.runState = .walk) (hs : s.seq = .fetch)
    (hstep : step s = .next t) : step (withHdr h s) = .next (withHdr h t) := by
  by_cases hp : s.bufLen ≤ s.pc
  · rw [step_done hr hs hp] at hstep
    cases hstep
    exact step_done (s := withHdr h s) hr hs hp
  by_cases hl : s.bufLen < s.pc + recHdrSize
  · rw [step_record_short hr hs (Nat.lt_of_not_le hp) hl] at hstep
    cases hstep
    exact step_record_short (s := withHdr h s) hr hs (Nat.lt_of_not_le hp) hl
  have hfit : s.pc + recHdrSize ≤ s.bufLen := Nat.le_of_not_lt hl
  cases hk : recKind s.cfg (headerAt s) with
  | error r =>
    rw [step_record_rejected hr hs hfit hk] at hstep
    cases hstep
    rw [← rejectRecord_withHdr]
    exact step_record_rejected (s := withHdr h s) hr hs hfit hk
  | ok k =>
    rw [step_record hr hs hfit hk] at hstep
    exact (step_record (s := withHdr h s) hr hs hfit hk).trans (exec_kindInstr_withHdr h hr hs hstep)

/-- Inside an audio record (R28, R149). -/
theorem step_withHdr_in_record {s t : State} (h : Header) (hr : s.runState = .walk) (hs : s.seq = .decode)
    (hstep : step s = .next t) : step (withHdr h s) = .next (withHdr h t) := by
  by_cases hz : s.rem = 0
  · rw [step_finish hr hs hz] at hstep
    cases hstep
    exact (step_finish (s := withHdr h s) hr hs hz).trans (congrArg _ (complete_withHdr h (commit s)))
  have hrem : 0 < s.rem := Nat.pos_of_ne_zero hz
  by_cases hw : s.inp + 1 ≤ s.winEnd ∧ s.inp + 1 ≤ s.bufLen
  · rw [step_code hr hs hrem hw.1 hw.2] at hstep
    rw [step_code (s := withHdr h s) hr hs hrem hw.1 hw.2, advanceNibble_withHdr]
    cases hc : codeStep (codeAt s) (advanceNibble s) with
    | next u =>
      rw [hc] at hstep
      cases hstep
      have hcode : codeStep (codeAt (withHdr h s)) (withHdr h (advanceNibble s)) = .next (withHdr h u) :=
        codeStep_withHdr h hc
      rw [hcode]
      rfl
    | fault f => rw [hc] at hstep; cases hstep
    | refused r => rw [hc] at hstep; cases hstep
  · have hout : s.winEnd < s.inp + 1 ∨ s.bufLen < s.inp + 1 := by omega
    rw [step_code_outside hr hs hrem hout] at hstep
    cases hstep
    exact step_code_outside (s := withHdr h s) hr hs hrem hout

/-- Settles O40: in each situation of the walker the operation commutes with the change of the header registers. -/
theorem headerRegistersInfluenceNothing : Obligations.HeaderRegistersInfluenceNothing := by
  intro s t h hidle hstep
  change step (withHdr h s) = .next (withHdr h t)
  cases hr : s.runState with
  | idle => exact absurd hr hidle
  | walk =>
    cases hs : s.seq with
    | fetch => exact step_withHdr_between_records h hr hs hstep
    | decode => exact step_withHdr_in_record h hr hs hstep
  | done =>
    rw [step_ended (.inl hr)] at hstep
    cases hstep
    exact step_ended (s := withHdr h s) (.inl hr)
  | fault =>
    rw [step_ended (.inr hr)] at hstep
    cases hstep
    exact step_ended (s := withHdr h s) (.inr hr)

end Sys2Proof.Machine

/-! ## Memory and the host port (20_memory.md)

The read ports answer big-endian numbers, no operation writes the input, the output only grows outside a fault, and what
the host reads depends on whether the run has ended. -/

namespace Sys2Proof.Machine

/-! ### Reads -/

/-- The first byte read is the most significant one (R51). -/
theorem beNat_readBytes (m : Memory) (a n : Nat) :
    beNat (m.readBytes a n) = ∑ k ∈ Finset.range n, (m.read (a + k)).toNat * 256 ^ (n - 1 - k) := by
  induction n generalizing a with
  | zero => rfl
  | succ n ih =>
    have htail : ∀ k, (m.read (a + 1 + k)).toNat * 256 ^ (n - 1 - k)
        = (m.read (a + (k + 1))).toNat * 256 ^ (n + 1 - 1 - (k + 1)) := fun k => by
      rw [Nat.add_right_comm, Nat.add_assoc, Nat.add_sub_cancel, Nat.add_comm k 1, Nat.sub_sub]
    rw [Finset.sum_range_succ', Memory.readBytes, beNat, ih, readBytes_length, Finset.sum_congr rfl fun k _ => htail k]
    exact Nat.add_comm _ _

/-- Settles O9: the bound is the read port's own test, the number is `beNat_readBytes`. -/
theorem readsAreBigEndianAndBounded : Obligations.ReadsAreBigEndianAndBounded := by
  intro s a n
  refine ⟨?_, rfl⟩
  rw [← beNat_readBytes]
  unfold memRead readBytes
  split <;> rfl

/-! ### The input -/

/-- An instruction is HDR, a record operation or a code (R80). -/
theorem instr_cases (i : Instr) :
    (∃ h, i = .hdr h) ∨ (∃ k z, i = kindInstr k z) ∨ ∃ c, i = codeInstr c := by
  cases i with
  | hdr h => exact .inl ⟨h, rfl⟩
  | akey z => exact .inr (.inl ⟨.audioKeyframe, z, rfl⟩)
  | apred z => exact .inr (.inl ⟨.audioPredict, z, rfl⟩)
  | vkey z => exact .inr (.inl ⟨.videoKeyframe, z, rfl⟩)
  | vpred z => exact .inr (.inl ⟨.videoPredict, z, rfl⟩)
  | vhold z => exact .inr (.inl ⟨.videoHold, z, rfl⟩)
  | _ => exact .inr (.inr (codeInstr_of_isCode rfl))

theorem SameRun.of_fields {s t : State} (hin : t.input = s.input) (hbuf : t.bufLen = s.bufLen) (hdup : t.dup = s.dup)
    (hcfg : t.cfg = s.cfg) : SameRun s t :=
  ⟨fun a => congrArg (Memory.read · a) hin, hin, hbuf, hdup, hcfg⟩

theorem rejectRecord_sameRun (h : RecHeader) (r : Reject) (s : State) : SameRun s (rejectRecord h r s) := by
  unfold rejectRecord
  split <;> exact .of_fields rfl rfl rfl rfl

/-- Complete writes neither the input nor a parameter (R192). -/
theorem SameRun.complete {s u : State} (h : SameRun s u) : SameRun s (complete u) := by
  obtain ⟨-, hin, hbuf, hdup, hcfg⟩ := h
  exact .of_fields (by simpa) (by simpa) (by simpa) (by simpa)

/-- An audio record's first step reads the input only (R191, R195, R196). -/
theorem audioRecord_sameRun {k : RecKind} (hk : isAudio k = true) {z : Word32} {s t : State}
    (he : audioRecord k z s = .next t) : SameRun s t := by
  obtain ⟨hr, hs⟩ := audioRecord_next he
  rw [audioRecord_eq hk hr hs] at he
  cases he
  split
  · exact .of_fields rfl rfl rfl rfl
  rename_i hw
  split
  · exact .of_fields rfl rfl rfl rfl
  split
  · rename_i hkey
    subst hkey
    obtain ⟨-, -, -, heq⟩ | ⟨c, a, -, heq⟩ := resetStep_cases (Nat.le_of_not_lt hw) <;>
      exact heq ▸ .of_fields rfl rfl rfl rfl
  · exact .of_fields rfl rfl rfl rfl

theorem exec_sameRun {i : Instr} {s t : State} (he : exec i s = .next t) : SameRun s t := by
  obtain ⟨h, rfl⟩ | ⟨k, z, rfl⟩ | ⟨c, rfl⟩ := instr_cases i
  · obtain ⟨-, -, ⟨-, rfl⟩ | ⟨-, -, rfl⟩ | ⟨-, -, rfl⟩⟩ := execHdr_next he <;> exact .of_fields rfl rfl rfl rfl
  · rw [exec_kindInstr] at he
    cases hk : isAudio k with
    | true => exact audioRecord_sameRun hk (by simpa [hk] using he)
    | false =>
      obtain ⟨-, -, ⟨-, rfl⟩ | ⟨-, rfl⟩⟩ := videoRecord_next (show videoRecord k z s = .next t by simpa [hk] using he)
      · exact (SameRun.of_fields rfl rfl rfl rfl).complete
      · exact .of_fields rfl rfl rfl rfl
  · rw [exec_codeInstr] at he
    obtain ⟨-, -, -, step, -, rfl⟩ := codeStep_next he
    exact .of_fields rfl rfl rfl rfl

theorem StepCase.sameRun {s t : State} (h : StepCase s t) : SameRun s t := by
  cases h with
  | ended | waiting | headerShort | headerOk | headerBad | finished | recordShort | videoOver | akey | apred
  | codeOutside => exact .of_fields rfl rfl rfl rfl
  | rejected r => exact rejectRecord_sameRun _ r s
  | video k z => exact (SameRun.of_fields rfl rfl rfl rfl).complete
  | audioFault k z c u _ _ _ _ _ _ hu => obtain rfl | ⟨a, rfl⟩ := hu <;> exact .of_fields rfl rfl rfl rfl
  | finish => exact (SameRun.of_fields (t := commit s) rfl rfl rfl rfl).complete
  | code => exact .of_fields (advanceNibble_input s) (advanceNibble_bufLen s) (advanceNibble_dup s) (advanceNibble_cfg s)

/-- Settles O34: by the operations' own case lemmas, and by `step_cases` for the step. -/
theorem inputIsNeverWritten : Obligations.InputIsNeverWritten :=
  ⟨fun _ _ _ he => exec_sameRun he, fun _ _ hstep => (step_cases hstep).sameRun⟩

/-! ### The output -/

theorem rejectRecord_runState (h : RecHeader) (r : Reject) (s : State) : (rejectRecord h r s).runState = .fault := by
  unfold rejectRecord
  split <;> rfl

/-- A code emits its sample (R146, R147). -/
theorem code_out (c : Code) (step : Half) (s : State) :
    (countSample (afterCode c step (advanceNibble s))).out
      = s.out ++ cellsOf s.dup (nextSample s.wPs (difference c step.toNat)) := by
  simp [afterCode]

/-- A step faults, or leaves the output as it is, or emits one sample: the seed of a keyframe record or the sample of a code
(R58, R144, R146). -/
theorem StepCase.output {s t : State} (h : StepCase s t) :
    t.runState = .fault ∨ t.out = s.out ∨ ∃ v, t.out = s.out ++ cellsOf s.dup v := by
  cases h with
  | ended | waiting | headerOk | finished | apred => exact .inr (.inl rfl)
  | headerShort | headerBad | recordShort | videoOver | audioFault | codeOutside => exact .inl rfl
  | rejected r => exact .inl (rejectRecord_runState _ r s)
  | video k z => exact .inr (.inl (complete_out _))
  | finish => exact .inr (.inl (complete_out _))
  | akey => exact .inr (.inr ⟨_, rfl⟩)
  | code step' => exact .inr (.inr ⟨_, code_out _ step' s⟩)

/-- Settles O35: by `StepCase.output`, one sample being `cellCount` cells. -/
theorem outputIsAppendOnly : Obligations.OutputIsAppendOnly := by
  intro s t hstep hrun
  obtain hfault | hsame | ⟨v, hemit⟩ := (step_cases hstep).output
  · exact absurd hfault hrun
  · exact ⟨[], by simpa using hsame, Nat.zero_le _⟩
  · exact ⟨_, hemit, (cellsOf_length s.dup v).le⟩

/-! ### When the host reads -/

theorem runEnded_iff {s : State} : runEnded s = true ↔ s.runState = .done ∨ s.runState = .fault := by
  simp [runEnded]

theorem runUnderway_iff {s : State} :
    runUnderway s = true ↔ s.runState = .walk ∨ (s.runState = .idle ∧ s.started = true) := by
  simp [runUnderway]

theorem hostRunState_of_not_underway {s : State} (h : runUnderway s = false) : hostRunState s = .ok s.runState := by
  simp [hostRunState, h]

/-- Settles O47, by the run states in which a run is in progress. -/
theorem runStateIsNotReadDuringARun : Obligations.RunStateIsNotReadDuringARun := by
  intro s
  refine ⟨fun h => if_pos (runUnderway_iff.2 h), fun h => ?_, fun hr hs => ?_⟩
  · refine hostRunState_of_not_underway ?_
    obtain h | h := h <;> simp [runUnderway, h]
  · rw [hostRunState_of_not_underway (by simp [runUnderway, hr, hs]), hr]

/-! ### What the host reads -/

/-- The values of the header registers in R27's order are the tag and the fields. -/
theorem headerValue_map (h : Header) :
    [HeaderReg.tag, .fileSize, .width, .height, .hSampling, .vSampling, .yShift, .videoQShift, .totalFrames,
      .usecPerFrame, .maxFrameSize, .maxSpPackets, .audioFormat, .channels, .sampleBits, .audioQStep,
      .totalAudioRecords, .samplesPerSec, .maxAudioRecordSize].map (headerValue h) = h.tag.toNat :: h.fields := rfl

theorem headerReg_latched {s : State} (h : s.hdrValid = true) (r : HeaderReg) :
    headerReg s r = .ok (some (headerValue s.hdr r : Int)) := if_pos h

theorem headerReg_blank {s : State} (h : s.hdrValid = false) (r : HeaderReg) : headerReg s r = .error .noValue := by
  simp [headerReg, h, unwritten]

theorem kindCode_lt (k : RecKind) : kindCode k < 5 := by cases k <;> decide

theorem staleValue_lt (s : State) (place : Nat) {range : Nat} (h : 0 < range) : staleValue s place range < range :=
  Nat.mod_lt _ h

theorem regValue_header_map {s : State} (h : s.hdrValid = true) (rs : List HeaderReg) :
    rs.map (fun r => regValue s (.header r)) = (rs.map (headerValue s.hdr)).map fun v => .ok (some (v : Int)) := by
  rw [List.map_map]
  exact List.map_congr_left fun r _ => headerReg_latched h r

/-- While no record has been fetched whole, the read of `REC_TYPE` to `WIN_END` is refused where they are not valid (D1, R44). -/
theorem regValue_unwritten {s : State} (hi : s.recIndex = 0) :
    (s.recValid = false → ∀ r ∈ [HostReg.recType, .recFormat, .recSize], regValue s r = .error .noValue)
      ∧ (s.kindValid = false → ∀ r ∈ [HostReg.recKind, .winEnd], regValue s r = .error .noValue) := by
  have hany : anyRecord s = false := by simp [anyRecord, hi]
  constructor <;> intro hv <;> simp [regValue, hany, hv]

/-- After the first record `REC_TYPE` to `WIN_END` read as values of their ranges, valid or not (R29, log 24). -/
theorem regValue_written {s : State} (hi : 0 < s.recIndex) :
    (∃ v < 2 ^ 16, regValue s .recType = .ok (some ((v : Nat) : Int)))
      ∧ (∃ v < 2 ^ 16, regValue s .recFormat = .ok (some ((v : Nat) : Int)))
      ∧ (∃ v < 2 ^ 32, regValue s .recSize = .ok (some ((v : Nat) : Int)))
      ∧ (∃ v < 5, regValue s .recKind = .ok (some ((v : Nat) : Int)))
      ∧ ∃ v : Nat, regValue s .winEnd = .ok (some (v : Int)) := by
  have hany : anyRecord s = true := decide_eq_true hi
  simp only [regValue, hany]
  refine ⟨recordReg_written _ s.recType.isLt (staleValue_lt s 0 (by decide)),
    recordReg_written _ s.recFormat.isLt (staleValue_lt s 1 (by decide)),
    recordReg_written _ s.recSize.isLt (staleValue_lt s 2 (by decide)),
    recordReg_written _ (kindCode_lt s.recKind) (staleValue_lt s 3 (by decide)), ?_⟩
  cases s.kindValid <;> exact ⟨_, rfl⟩

theorem regValue_recSamples_written {s : State} (ha : 0 < s.nAudio) :
    ∃ v < 2 ^ 32, regValue s .recSamples = .ok (some ((v : Nat) : Int)) := by
  simp only [regValue, show anyAudio s = true from decide_eq_true ha]
  exact recordReg_written _ s.recSamples.isLt (staleValue_lt s 5 (by decide))

/-- After a fault the fault registers hold what it wrote (R32). -/
theorem faultReg_of_fault {s : State} {i : FaultInfo} (h : s.fault = some i) (f : FaultInfo → Nat) :
    faultReg s f = .ok (some (f i : Int)) := by
  simp [faultReg, h]

/-- Before a fault they hold no value (R32). -/
theorem faultReg_before {s : State} (h : s.fault = none) (f : FaultInfo → Nat) : faultReg s f = .ok none := by
  simp [faultReg, h]

theorem hostReads_refused {s : State} (h : runEnded s = false) (r : HostReg) :
    hostReadReg r s = .error .runNotEnded ∧ hostReadOut s = .error .runNotEnded
      ∧ hostReadRecOut s = .error .runNotEnded := by
  simp [hostReadReg, hostReadOut, hostReadRecOut, h]

theorem hostReads_answered {s : State} (h : runEnded s = true) (r : HostReg) :
    hostReadReg r s = regValue s r ∧ hostReadOut s = .ok (outInts s) ∧ hostReadRecOut s = .ok s.recOut :=
  ⟨if_pos h, if_pos h, if_pos h⟩

/-- Settles O4: the gate is `runEnded`; behind it each register's read is that of its group. -/
theorem hostReadsOnlyAfterTheRun : Obligations.HostReadsOnlyAfterTheRun := by
  refine ⟨fun s r h => hostReads_refused ?_ r, fun s r h => hostReads_answered (runEnded_iff.2 h) r, rfl, fun s => ?_⟩
  · obtain h | h := h <;> simp [runEnded, h]
  · refine ⟨⟨rfl, rfl, rfl, rfl, rfl, rfl, rfl⟩, fun h => ?latched, fun h r => headerReg_blank h r, ?recValid, ?kindValid,
      ?samplesValid, regValue_unwritten, ?noSamples, regValue_written, regValue_recSamples_written, ?noFault,
      fun i h => ⟨faultReg_of_fault h _, faultReg_of_fault h _, faultReg_of_fault h _⟩⟩
    case latched => rw [regValue_header_map h, headerValue_map]
    case recValid => exact fun h => ⟨if_pos h, if_pos h, if_pos h⟩
    case kindValid => exact fun h => ⟨if_pos h, if_pos h⟩
    case samplesValid => exact fun h => if_pos h
    case noSamples =>
      intro ha hv
      simp [regValue, anyAudio, ha, hv]
    case noFault => simp +contextual [regValue, faultReg_before]

end Sys2Proof.Machine

/-! ## Encodings (30_encoding.md)

An instruction is HDR, the record operation of a kind or the operation of a code (`instr_cases`), so each round trip is
proved once for each of the three formats of R80. -/

namespace Sys2Proof

open Machine

/-! ### Words and their big-endian bytes -/

/-- A word of `n` bytes is read back from its bytes (R51). -/
theorem ofNat_beNat_beBytes {n : Nat} (v : BitVec (8 * n)) : BitVec.ofNat (8 * n) (beNat (beBytes n v.toNat)) = v := by
  have hlt : v.toNat < 256 ^ n := by simpa [pow_mul] using v.isLt
  rw [beNat_beBytes_of_lt hlt, BitVec.ofNat_toNat, BitVec.setWidth_eq]

/-- `n` bytes are the bytes of the word read from them (R51). -/
theorem beBytes_ofNat_beNat {n : Nat} {bs : List Byte} (h : bs.length = n) :
    beBytes n (BitVec.ofNat (8 * n) (beNat bs)).toNat = bs := by
  subst h
  have hlt : beNat bs < 2 ^ (8 * bs.length) := by simpa [pow_mul] using beNat_lt bs
  rw [BitVec.toNat_ofNat, Nat.mod_eq_of_lt hlt, beBytes_beNat]

/-! ### Format CH -/

/-- The header read from the bytes HDR is encoded in is the header (R83). -/
theorem splitHeader_encode {cfg : Config} {h : Header} (hw : wellFormed cfg (.hdr h) = true) :
    splitHeader cfg (encode cfg (.hdr h)) = h := by
  have htag : (beBytes 16 h.tag.toNat ++ joinFields cfg.layout h.fields).take 16 = beBytes 16 h.tag.toNat :=
    List.take_left' (beBytes_length ..)
  have hfields : (beBytes 16 h.tag.toNat ++ joinFields cfg.layout h.fields).drop 16 = joinFields cfg.layout h.fields :=
    List.drop_left' (beBytes_length ..)
  have hword : BitVec.ofNat 128 (beNat (beBytes 16 h.tag.toNat)) = h.tag := ofNat_beNat_beBytes (n := 16) h.tag
  rw [splitHeader, encode, htag, hfields, hword, splitFields_joinFields hw, headerOf_fields]

/-! ### Format RH -/

@[simp] theorem encode_kindInstr (cfg : Config) (k : RecKind) (z : Word32) :
    encode cfg (kindInstr k z) = encodeRecHeader (kindHeader cfg k z) := by
  cases k <;> rfl

@[simp] theorem formatOf_kindInstr (k : RecKind) (z : Word32) : formatOf (kindInstr k z) = .rh := by
  cases k <;> rfl

theorem splitRecHeader_encodeRecHeader (h : RecHeader) : splitRecHeader (encodeRecHeader h) = h := by
  obtain ⟨typ, fmt, size⟩ := h
  have htyp : BitVec.ofNat 16 (beNat (beBytes 2 typ.toNat)) = typ := ofNat_beNat_beBytes (n := 2) typ
  have hfmt : BitVec.ofNat 16 (beNat (beBytes 2 fmt.toNat)) = fmt := ofNat_beNat_beBytes (n := 2) fmt
  have hsize : BitVec.ofNat 32 (beNat (beBytes 4 size.toNat)) = size := ofNat_beNat_beBytes (n := 4) size
  simp [splitRecHeader, encodeRecHeader, List.drop_append, List.drop_of_length_le, List.take_of_length_le, htyp, hfmt,
    hsize]

theorem encodeRecHeader_splitRecHeader {bs : List Byte} (h : bs.length = 8) :
    encodeRecHeader (splitRecHeader bs) = bs := by
  have htyp : beBytes 2 (splitRecHeader bs).typ.toNat = bs.take 2 :=
    beBytes_ofNat_beNat (n := 2) (by simp [h])
  have hfmt : beBytes 2 (splitRecHeader bs).fmt.toNat = (bs.drop 2).take 2 :=
    beBytes_ofNat_beNat (n := 2) (by simp [h])
  have hsize : beBytes 4 (splitRecHeader bs).size.toNat = (bs.drop 4).take 4 :=
    beBytes_ofNat_beNat (n := 4) (by simp [h])
  have hlast : (bs.drop 4).take 4 = bs.drop 4 := List.take_of_length_le (by simp [h])
  rw [encodeRecHeader, htyp, hfmt, hsize, hlast, ← List.take_add, List.take_append_drop]

/-- With distinct codes the type and format codes of a kind decode to it (R82, R121, R122). -/
theorem recKind_kindHeader {cfg : Config} (h : cfg.codesDistinct = true) (k : RecKind) (z : Word32) :
    recKind cfg (kindHeader cfg k z) = .ok k := by
  simp only [Config.codesDistinct, Bool.and_eq_true, bne_iff_ne] at h
  obtain ⟨⟨⟨⟨htype, haudio⟩, hkeyPredict⟩, hkeyHold⟩, hpredictHold⟩ := h
  cases k <;>
    simp [recKind, recType, recFormat, kindHeader, htype.symm, haudio.symm, hkeyPredict.symm, hkeyHold.symm,
      hpredictHold.symm]

/-- A header that decodes to a kind has that kind's type and format codes (R82, R121, R122). -/
theorem kindHeader_of_recKind {cfg : Config} {h : RecHeader} {k : RecKind} (hk : recKind cfg h = .ok k) :
    kindHeader cfg k h.size = h := by
  obtain ⟨typ, fmt, size⟩ := h
  by_cases haudio : typ = cfg.codeAudio
  · simp only [recKind, recType, recFormat, if_pos haudio] at hk
    split_ifs at hk with hkey hpredict <;> cases hk
    · rw [haudio, hkey, kindHeader]
    · rw [haudio, hpredict, kindHeader]
  by_cases hvideo : typ = cfg.codeVideo
  · simp only [recKind, recType, recFormat, if_neg haudio, if_pos hvideo] at hk
    split_ifs at hk with hkey hpredict hhold <;> cases hk
    · rw [hvideo, hkey, kindHeader]
    · rw [hvideo, hpredict, kindHeader]
    · rw [hvideo, hhold, kindHeader]
  · simp only [recKind, recType, if_neg haudio, if_neg hvideo] at hk
    cases hk

theorem decode_rh_of_length {cfg : Config} {bs : List Byte} (h : bs.length = 8) :
    decode cfg .rh bs = (recKind cfg (splitRecHeader bs)).map (kindInstr · (splitRecHeader bs).size) := by
  have hlen : ¬ bs.length < recHdrSize := by simp [h, recHdrSize]
  rw [decode, decodeRh, if_neg hlen]
  cases recKind cfg (splitRecHeader bs) <;> rfl

/-! ### Format NB -/

@[simp] theorem encode_codeInstr (cfg : Config) (c : Code) : encode cfg (codeInstr c) = encodeCode c := by
  obtain ⟨⟨n, hn⟩⟩ := c
  have hn' : n < 16 := hn
  interval_cases n <;> rfl

@[simp] theorem formatOf_codeInstr (c : Code) : formatOf (codeInstr c) = .nb .high := by
  simpa [isCode] using isCode_codeInstr c

/-- A code stands in the high nibble of the byte it is encoded in (R87). -/
theorem nibble_high_append (c d : Code) : nibble .high (c ++ d) = c := by
  rw [nibble]
  exact BitVec.extractLsb'_append_eq_left

/-! ### The round trips -/

theorem decode_encode_hdr {cfg : Config} {h : Header} (hcfg : cfg.legal = true) (hw : wellFormed cfg (.hdr h) = true) :
    decode cfg .ch (encode cfg (.hdr h)) = .ok (.hdr h) := by
  have hlen : (encode cfg (.hdr h)).length = hdrSize := Laws.EncodeLength.hdr h cfg hcfg hw
  rw [decode, decodeCh, if_neg hlen.not_lt, splitHeader_encode hw]

theorem decode_encode_kindInstr {cfg : Config} (h : cfg.codesDistinct = true) (k : RecKind) (z : Word32) :
    decode cfg .rh (encode cfg (kindInstr k z)) = .ok (kindInstr k z) := by
  rw [encode_kindInstr, decode_rh_of_length (Laws.EncodeLength.recHeader _), splitRecHeader_encodeRecHeader,
    recKind_kindHeader h, kindHeader_size]
  rfl

theorem decode_encode_codeInstr (cfg : Config) (c : Code) :
    decode cfg (.nb .high) (encode cfg (codeInstr c)) = .ok (codeInstr c) := by
  rw [encode_codeInstr, encodeCode, decode, decodeNb, nibble_high_append]

/-- Settles O6, format by format. -/
theorem decodeOfEncode : Obligations.DecodeOfEncode := by
  intro cfg i hcfg hw
  obtain ⟨h, rfl⟩ | ⟨k, z, rfl⟩ | ⟨c, rfl⟩ := instr_cases i
  · exact decode_encode_hdr hcfg hw
  · rw [formatOf_kindInstr]
    exact decode_encode_kindInstr (legal_codes hcfg) k z
  · rw [formatOf_codeInstr]
    exact decode_encode_codeInstr cfg c

/-- Settles O7: the decoded kind fixes type and format, and no byte of the header is lost in its fields. -/
theorem encodeOfDecodedRecordHeader : Obligations.EncodeOfDecodedRecordHeader := by
  intro cfg bs i hlen hdec
  rw [decode_rh_of_length hlen] at hdec
  cases hk : recKind cfg (splitRecHeader bs) with
  | error r => rw [hk] at hdec; cases hdec
  | ok k =>
    rw [hk] at hdec
    cases hdec
    rw [encode_kindInstr, kindHeader_of_recKind hk, encodeRecHeader_splitRecHeader hlen]

/-- Settles O5, by running the decoder on each word. -/
theorem sampleWordsDecode : Obligations.SampleWordsDecode := by
  unfold Obligations.SampleWordsDecode
  decide

end Sys2Proof

/-! ## Unread input (93_implementation_defined.md U6)

Each operation commutes with a change of the input that keeps the bytes and codes it reads; a record's run is then an
induction on the codes left (`runFor_withInput_of_decodes`). -/

namespace Sys2Proof.Machine

/-! ### The codes of a stream -/

/-- The phase of the `k`-th code of a record (R87). -/
def codePhase (k : Nat) : Phase := if k % 2 = 0 then .high else .low

/-- The `k`-th code of the stream that starts at `a` (R87). -/
def streamCode (m : Memory) (a k : Nat) : Code := nibble (codePhase k) (m.read (a + k / 2))

theorem codesFrom_eq_map (m : Memory) (a n : Nat) : codesFrom m a n = (List.range n).map (streamCode m a) := rfl

theorem codesFrom_eq_iff {m m' : Memory} {a n : Nat} :
    codesFrom m a n = codesFrom m' a n ↔ ∀ k < n, streamCode m a k = streamCode m' a k := by
  simp only [codesFrom_eq_map, List.map_inj_left, List.mem_range]

/-- `s` decodes an audio record whose codes start at `a`: `k` of them are done and `n` are left (R145, R149). -/
structure Decodes (a k n : Nat) (s : State) : Prop where
  walk : s.runState = .walk
  seq : s.seq = .decode
  rem : s.rem = n
  inp : s.inp = a + k / 2
  phase : s.phase = codePhase k

theorem Decodes.codeAt {a k n : Nat} {s : State} (h : Decodes a k n s) : codeAt s = streamCode s.input a k := by
  rw [Machine.codeAt, h.inp, h.phase, streamCode]

/-- A code moves the stream position by one (R145, R149). -/
theorem Decodes.afterCode {a k n : Nat} {s : State} (h : Decodes a k (n + 1) s) (c : Code) (step : Half) :
    Decodes a (k + 1) n (countSample (afterCode c step (advanceNibble s))) := by
  have hpos : (advanceNibble s).inp = a + (k + 1) / 2 ∧ (advanceNibble s).phase = codePhase (k + 1) := by
    have hp := h.phase
    unfold codePhase at hp ⊢
    split at hp
    · rw [advanceNibble_inp_high s hp, advanceNibble_phase_high s hp, h.inp, if_neg (by omega)]
      exact ⟨by omega, rfl⟩
    · rw [advanceNibble_inp_low s hp, advanceNibble_phase_low s hp, h.inp, if_pos (by omega)]
      exact ⟨by omega, rfl⟩
  exact ⟨by simp [Machine.afterCode, h.walk], by simp [Machine.afterCode, h.seq],
    by simp [Machine.afterCode, h.rem], hpos.1, hpos.2⟩

/-! ### Steps and runs that answer -/

/-- A run that answers answers at its first step. -/
theorem runFor_succ_next {n : Nat} {s t : State} (h : runFor (n + 1) s = .next t) :
    ∃ u, step s = .next u ∧ runFor n u = .next t := by
  cases hs : step s with
  | next u => exact ⟨u, rfl, runFor_succ n hs ▸ h⟩
  | fault f =>
    have hc : core.step s = .fault f := hs
    simp [runFor, Host.Core.run, hc] at h
  | refused r =>
    have hc : core.step s = .refused r := hs
    simp [runFor, Host.Core.run, hc] at h

/-- What a step inside an audio record with samples to produce does, when it answers: its byte lies outside the window, or
its code runs (R145, R146). -/
theorem step_code_next {s u : State} (hr : s.runState = .walk) (hs : s.seq = .decode) (hrem : 0 < s.rem)
    (h : step s = .next u) :
    ((s.winEnd < s.inp + 1 ∨ s.bufLen < s.inp + 1) ∧ u = raiseAudio .outOfBounds s)
      ∨ (s.inp + 1 ≤ s.winEnd ∧ s.inp + 1 ≤ s.bufLen ∧ ∃ step', s.cfg.stepTable[s.wSi.toNat]? = some step'
          ∧ u = countSample (afterCode (codeAt s) step' (advanceNibble s))) := by
  by_cases hw : s.inp + 1 ≤ s.winEnd ∧ s.inp + 1 ≤ s.bufLen
  · rw [step_code hr hs hrem hw.1 hw.2] at h
    cases hc : codeStep (codeAt s) (advanceNibble s) with
    | next v =>
      rw [hc] at h
      cases h
      obtain ⟨-, -, -, step', hlook, rfl⟩ := codeStep_next hc
      exact .inr ⟨hw.1, hw.2, step', by simpa using hlook, rfl⟩
    | fault f => rw [hc] at h; cases h
    | refused r => rw [hc] at h; cases h
  · have hout : s.winEnd < s.inp + 1 ∨ s.bufLen < s.inp + 1 := by omega
    rw [step_code_outside hr hs hrem hout] at h
    cases h
    exact .inl ⟨hout, rfl⟩

theorem Decodes.step {a k n : Nat} {s u : State} (h : Decodes a k (n + 1) s) (hstep : step s = .next u) :
    u.runState = .fault ∨ Decodes a (k + 1) n u := by
  obtain ⟨-, rfl⟩ | ⟨-, -, step', -, rfl⟩ :=
    step_code_next h.walk h.seq (h.rem ▸ Nat.succ_pos n) hstep
  · exact .inl rfl
  · exact .inr (h.afterCode _ step')

/-! ### Another input -/

/-- `s` with other contents of `IN` (U6). -/
def withInput (m : Memory) (s : State) : State := { s with input := m }

theorem complete_withInput (m : Memory) (s : State) : complete (withInput m s) = withInput m (complete s) := by
  have hkind : (withInput m s).recKind = s.recKind := rfl
  unfold complete
  rw [hkind]
  split <;> rfl

theorem advanceNibble_withInput (m : Memory) (s : State) :
    advanceNibble (withInput m s) = withInput m (advanceNibble s) := by
  have hphase : (withInput m s).phase = s.phase := rfl
  unfold advanceNibble
  rw [hphase]
  split <;> rfl

theorem seedStep_withInput (m : Memory) (b0 b1 : Byte) (s : State) :
    seedStep b0 b1 (withInput m s) = withInput m (seedStep b0 b1 s) := by
  unfold seedStep
  split <;> rfl

/-- The sample count is read from the sub-header (R126). -/
theorem withSamples_withInput {m : Memory} {s : State} (k : RecKind) (z : Word32)
    (hsub : m.readBytes (s.pc + 8) 4 = s.input.readBytes (s.pc + 8) 4) :
    withSamples k z (withInput m s) = withInput m (withSamples k z s) := by
  have hcount : beNat ((withInput m s).input.readBytes ((withInput m s).pc + recHdrSize) audioSubHdrSize)
      = beNat (s.input.readBytes (s.pc + recHdrSize) audioSubHdrSize) := congrArg beNat hsub
  unfold withSamples
  rw [hcount]
  rfl

/-- The Reset step reads the sample count and the two seed bytes (R144). -/
theorem resetStep_withInput {m : Memory} {s : State} {z : Word32} (hw : s.pc + recHdrSize + z.toNat ≤ s.bufLen)
    (hsub : m.readBytes (s.pc + 8) 4 = s.input.readBytes (s.pc + 8) 4)
    (h0 : m.read (s.pc + 12) = s.input.read (s.pc + 12)) (h1 : m.read (s.pc + 13) = s.input.read (s.pc + 13)) :
    resetStep (setupDecode (withSamples .audioKeyframe z (withInput m s)))
      = withInput m (resetStep (setupDecode (withSamples .audioKeyframe z s))) := by
  have h0' : (withInput m s).input.read ((withInput m s).pc + 12) = s.input.read (s.pc + 12) := h0
  have h1' : (withInput m s).input.read ((withInput m s).pc + 13) = s.input.read (s.pc + 13) := h1
  have hcount : (withInput m (withSamples .audioKeyframe z s)).recSamples
      = (withSamples .audioKeyframe z s).recSamples := rfl
  rw [resetStep_setup (s := withInput m s) hw, resetStep_setup hw, h0', h1', withSamples_withInput _ z hsub, hcount]
  split
  · rfl
  split
  · rfl
  · exact seedStep_withInput m _ _ (setupDecode (withSamples .audioKeyframe z s))

/-- A code reads itself only (R145, R146). -/
theorem step_withInput_of_code {m : Memory} {s u : State} (hr : s.runState = .walk) (hs : s.seq = .decode)
    (hrem : 0 < s.rem) (hcode : codeAt (withInput m s) = codeAt s) (h : step s = .next u) :
    step (withInput m s) = .next (withInput m u) := by
  obtain ⟨hout, rfl⟩ | ⟨hw, hb, step', hlook, rfl⟩ := step_code_next hr hs hrem h
  · exact step_code_outside (s := withInput m s) hr hs hrem hout
  · rw [step_code_runs (s := withInput m s) hr hs hrem hw hb hlook, hcode, advanceNibble_withInput]
    rfl

/-- Commit and Complete read nothing (R148, R192). -/
theorem step_withInput_of_finish {m : Memory} {s u : State} (hr : s.runState = .walk) (hs : s.seq = .decode)
    (hrem : s.rem = 0) (h : step s = .next u) : step (withInput m s) = .next (withInput m u) := by
  rw [step_finish hr hs hrem] at h
  cases h
  exact (step_finish (s := withInput m s) hr hs hrem).trans (congrArg _ (complete_withInput m (commit s)))

/-- The rest of an audio record reads its codes only (R149, R150): by induction on the codes left. -/
theorem runFor_withInput_of_decodes {m : Memory} {a k n : Nat} {s t : State} (hd : Decodes a k n s)
    (hcodes : ∀ j, k ≤ j → j < k + n → streamCode m a j = streamCode s.input a j)
    (hrun : runFor (n + 1) s = .next t) : runFor (n + 1) (withInput m s) = .next (withInput m t) := by
  induction n generalizing k s with
  | zero =>
    obtain ⟨u, hstep, hrest⟩ := runFor_succ_next hrun
    cases hrest
    exact runFor_succ 0 (step_withInput_of_finish hd.walk hd.seq hd.rem hstep)
  | succ n ih =>
    obtain ⟨u, hstep, hrest⟩ := runFor_succ_next hrun
    have hd' : Decodes a k (n + 1) (withInput m s) := ⟨hd.walk, hd.seq, hd.rem, hd.inp, hd.phase⟩
    have hcode : codeAt (withInput m s) = codeAt s := by
      rw [hd'.codeAt, hd.codeAt]
      exact hcodes k (Nat.le_refl k) (by omega)
    have hrem : 0 < s.rem := hd.rem ▸ Nat.succ_pos n
    rw [runFor_succ _ (step_withInput_of_code hd.walk hd.seq hrem hcode hstep)]
    obtain hfault | hnext := hd.step hstep
    · rw [runFor_ended _ (.inr hfault)] at hrest
      cases hrest
      exact runFor_ended _ (.inr hfault)
    · obtain ⟨-, hin, -⟩ := (step_cases hstep).sameRun
      exact ih hnext (fun j hj hlt => hin ▸ hcodes j (by omega) (by omega)) hrest

/-! ### Whole records -/

theorem headerAt_of_recordAt {s : State} {k : RecKind} {z : Word32} (h : recordAt s s.pc k z) :
    headerAt s = kindHeader s.cfg k z := by
  rw [headerAt, h, splitRecHeader_encodeRecHeader]

/-- The step at a record's header runs that record (R191). -/
theorem step_recordAt {s : State} {k : RecKind} {z : Word32} (hr : s.runState = .walk) (hs : s.seq = .fetch)
    (hl : s.pc + 8 ≤ s.bufLen) (hc : s.cfg.codesDistinct = true) (hrec : recordAt s s.pc k z) :
    step s = if isAudio k then audioRecord k z s else videoRecord k z s := by
  have hk : recKind s.cfg (headerAt s) = .ok k := by
    rw [headerAt_of_recordAt hrec, recKind_kindHeader hc]
  rw [step_record hr hs hl hk, headerAt_of_recordAt hrec, kindHeader_size, exec_kindInstr]

/-- A video record reads nothing of its payload (R197, R198, R199). -/
theorem videoRecord_withInput {m : Memory} {k : RecKind} {z : Word32} {s t : State} (h : videoRecord k z s = .next t) :
    videoRecord k z (withInput m s) = .next (withInput m t) := by
  obtain ⟨hr, hs, -⟩ := videoRecord_next h
  rw [videoRecord_eq hr hs] at h
  cases h
  rw [videoRecord_eq (s := withInput m s) hr hs]
  refine congrArg _ ?_
  change (if s.pc + recHdrSize + z.toNat ≤ s.bufLen then _ else _) = _
  split
  · exact complete_withInput m (enterRecord k z s)
  · rfl

/-- An audio record's first step reads the sub-header and, in Reset mode, the seed (R195, R196). -/
theorem audioRecord_withInput {m : Memory} {k : RecKind} {z : Word32} {s t : State} (hk : isAudio k = true)
    (hsub : m.readBytes (s.pc + 8) 4 = s.input.readBytes (s.pc + 8) 4)
    (hseed : k = .audioKeyframe → m.read (s.pc + 12) = s.input.read (s.pc + 12)
      ∧ m.read (s.pc + 13) = s.input.read (s.pc + 13))
    (h : audioRecord k z s = .next t) : audioRecord k z (withInput m s) = .next (withInput m t) := by
  obtain ⟨hr, hs⟩ := audioRecord_next h
  rw [audioRecord_eq hk hr hs] at h
  cases h
  rw [audioRecord_eq (s := withInput m s) hk hr hs]
  refine congrArg _ ?_
  change (if s.bufLen < s.pc + recHdrSize + z.toNat then _ else _) = _
  split
  · rfl
  rename_i hw
  split
  · rfl
  split
  · rename_i hkey
    subst hkey
    obtain ⟨h0, h1⟩ := hseed rfl
    exact resetStep_withInput (Nat.le_of_not_lt hw) hsub h0 h1
  · rw [withSamples_withInput k z hsub]
    rfl

/-- After the first step of a predict record all its codes are left, or it has faulted (R196). -/
theorem audioRecord_predict_decodes {z : Word32} {s u : State} (h : audioRecord .audioPredict z s = .next u) :
    u.runState = .fault ∨ Decodes (s.pc + 12) 0 (samplesAt s s.pc) u := by
  obtain ⟨hr, hs⟩ := audioRecord_next h
  rw [audioRecord_eq rfl hr hs] at h
  cases h
  split
  · exact .inl rfl
  split
  · exact .inl rfl
  · exact .inr ⟨hr, rfl, withSamples_toNat .audioPredict z s, rfl, rfl⟩

/-- After the first step of a keyframe record all its codes are left, one fewer than its samples, or it has faulted (R195). -/
theorem audioRecord_keyframe_decodes {z : Word32} {s u : State} (h : audioRecord .audioKeyframe z s = .next u) :
    u.runState = .fault ∨ (0 < samplesAt s s.pc ∧ Decodes (s.pc + 14) 0 (samplesAt s s.pc - 1) u) := by
  have hcount : (withSamples .audioKeyframe z s).recSamples.toNat = samplesAt s s.pc :=
    withSamples_toNat .audioKeyframe z s
  obtain ⟨hr, hs⟩ := audioRecord_next h
  rw [audioRecord_eq rfl hr hs] at h
  cases h
  split
  · exact .inl rfl
  rename_i hw
  split
  · exact .inl rfl
  obtain ⟨hpos, -, -, heq⟩ | ⟨c, a, -, heq⟩ := resetStep_cases (Nat.le_of_not_lt hw)
  · rw [if_pos rfl, heq, ← hcount]
    exact .inr ⟨hpos, hr, rfl, rfl, rfl, rfl⟩
  · rw [if_pos rfl, heq]
    exact .inl rfl

/-- An audio record's run reads what its first step reads, and its codes (R149, R150). -/
theorem runFor_withInput_of_first {m : Memory} {a n len : Nat} {s u t : State} (hstep : step s = .next u)
    (hstep' : step (withInput m s) = .next (withInput m u))
    (hu : u.runState = .fault ∨ (len = n + 1 ∧ Decodes a 0 n u)) (hcodes : codesFrom m a n = codesFrom s.input a n)
    (hrun : runFor (len + 1) s = .next t) : runFor (len + 1) (withInput m s) = .next (withInput m t) := by
  rw [runFor_succ _ hstep] at hrun
  rw [runFor_succ _ hstep']
  obtain hfault | ⟨rfl, hd⟩ := hu
  · rw [runFor_ended _ (.inr hfault)] at hrun
    cases hrun
    exact runFor_ended _ (.inr hfault)
  · obtain ⟨-, hin, -⟩ := (step_cases hstep).sameRun
    exact runFor_withInput_of_decodes hd
      (fun j _ hj => hin ▸ codesFrom_eq_iff.1 hcodes j (by omega)) hrun

/-- Settles O46: the header selects the record in both inputs, its first step reads the sub-header and the seed, and the
steps after that read the codes. -/
theorem unreadBytesHaveNoEffect : Obligations.UnreadBytesHaveNoEffect := by
  intro s t m z hr hs hl hc hhdr
  have hstep (k : RecKind) (hrec : recordAt s s.pc k z) := step_recordAt hr hs hl hc hrec
  have hstep' (k : RecKind) (hrec : recordAt s s.pc k z) :=
    step_recordAt (s := withInput m s) hr hs hl hc (hhdr.trans hrec)
  refine ⟨fun k hk hrec h => ?video, fun hrec hsub hcodes hrun => ?predict, fun hrec hsub hcodes hrun => ?keyframe⟩
  case video =>
    have hvideo : ¬ isAudio k = true := by
      simp only [List.mem_cons, List.not_mem_nil, or_false] at hk
      obtain rfl | rfl | rfl := hk <;> decide
    rw [hstep k hrec, if_neg hvideo] at h
    exact (hstep' k hrec).trans ((if_neg hvideo).trans (videoRecord_withInput h))
  case predict =>
    obtain ⟨u, hu, -⟩ := runFor_succ_next hrun
    have hfirst : audioRecord .audioPredict z s = .next u := (hstep _ hrec).symm.trans hu
    have hfirst' := (hstep' _ hrec).trans (audioRecord_withInput (m := m) rfl hsub (by simp) hfirst)
    exact runFor_withInput_of_first hu hfirst'
      ((audioRecord_predict_decodes hfirst).imp_right fun hd => ⟨rfl, hd⟩) hcodes hrun
  case keyframe =>
    obtain ⟨u, hu, -⟩ := runFor_succ_next hrun
    have hfirst : audioRecord .audioKeyframe z s = .next u := (hstep _ hrec).symm.trans hu
    simp only [Memory.readBytes, List.cons.injEq, and_true] at hsub
    obtain ⟨hb0, hb1, hb2, hb3, hseed0, hseed1⟩ := hsub
    have hcount : m.readBytes (s.pc + 8) 4 = s.input.readBytes (s.pc + 8) 4 := by
      simp only [Memory.readBytes, hb0, hb1, hb2, hb3]
    have hfirst' := (hstep' _ hrec).trans
      (audioRecord_withInput (m := m) rfl hcount (fun _ => ⟨hseed0, hseed1⟩) hfirst)
    exact runFor_withInput_of_first hu hfirst'
      ((audioRecord_keyframe_decodes hfirst).imp_right fun ⟨hpos, hd⟩ => ⟨by omega, hd⟩) hcodes hrun

end Sys2Proof.Machine

/-! ## The container header (40_container_header.md)

What HDR does where it is due is `execHdr_eq`; the header step reads its operand at the offsets of `HDR_LAYOUT`, which is an
induction on the fields. An operation that is not due is refused, and that is said once for HDR, the record operations and
the codes. -/

namespace Sys2Proof.Machine

/-! ### HDR and the header step -/

/-- Settles O12: HDR is due, the buffer holds the header and the tag is the signature. -/
theorem hdrStartsTheWalk : Obligations.HdrStartsTheWalk := fun _ _ hr hp hl htag =>
  (execHdr_eq hr hp hl).trans (if_pos htag)

/-- A field is read at the offset the widths before it add up to (R83). -/
theorem splitFields_readBytes_getElem? (m : Memory) {ws : List Nat} {k : Nat} (hk : k < ws.length) {a n : Nat}
    (hn : ws.sum ≤ n) :
    (splitFields ws (m.readBytes a n))[k]? = some (beNat (m.readBytes (a + (ws.take k).sum) (ws.getD k 0))) := by
  induction ws generalizing a n k with
  | nil => exact absurd hk (Nat.not_lt_zero k)
  | cons w ws ih =>
    rw [List.sum_cons] at hn
    rw [splitFields, readBytes_take m a n w (by omega), readBytes_drop]
    cases k with
    | zero => rfl
    | succ k =>
      rw [List.getElem?_cons_succ, ih (Nat.lt_of_succ_lt_succ hk) (by omega), List.take_succ_cons, List.sum_cons,
        List.getD_cons_succ, Nat.add_assoc]

/-- Sixteen bytes fit the tag register (R83). -/
theorem splitHeader_tag_toNat (cfg : Config) (m : Memory) (a : Nat) :
    (splitHeader cfg (m.readBytes a hdrSize)).tag.toNat = beNat (m.readBytes a 16) := by
  have hlt : beNat (m.readBytes a 16) < 2 ^ 128 := by simpa using beNat_lt (m.readBytes a 16)
  have htag : (splitHeader cfg (m.readBytes a hdrSize)).tag = BitVec.ofNat 128 (beNat (m.readBytes a 16)) := by
    rw [← readBytes_take m a hdrSize 16 (by decide)]
    rfl
  rw [htag, BitVec.toNat_ofNat, Nat.mod_eq_of_lt hlt]

/-- An admitted layout loses nothing of a field in its register (R56, R83; log 14). -/
theorem splitHeader_fields {cfg : Config} (hc : cfg.legal = true) (m : Memory) (a : Nat) :
    (splitHeader cfg (m.readBytes a hdrSize)).fields = splitFields cfg.layout (m.readBytes (a + 16) 44) := by
  obtain ⟨hlen, hwidth, hsum⟩ := legal_layout hc
  have hfit : fieldsFit cfg.layout (splitFields cfg.layout (m.readBytes (a + 16) 44)) = true :=
    fieldsFit_splitFields (by rw [hsum, readBytes_length])
  rw [splitHeader, readBytes_drop]
  exact fields_headerOf ((splitFields_length ..).trans hlen) (fieldsFit_lt hfit hwidth)

/-- Before the first record the fault registers hold index 0 and offset 0 (R221). -/
theorem raise_at_start {s : State} (c : FaultCause) (hp : s.pc = 0) (hi : s.recIndex = 0) :
    raise c s = { s with runState := .fault, fault := some ⟨c, 0, 0⟩ } := by rw [raise, hi, hp]

/-- The header step is HDR on the 60 bytes read: it latches them, and the tag decides how (R110, R112). -/
theorem step_header_latches {s : State} (hr : s.runState = .idle) (hs : s.started = true) (hp : s.pc = 0)
    (hi : s.recIndex = 0) (hl : hdrSize ≤ s.bufLen) {h : Header}
    (hh : h = splitHeader s.cfg (s.input.readBytes 0 hdrSize)) :
    step s = if h.tag = 0x4856514D3220312E3000000000000000 then
        .next { s with hdr := h, hdrValid := true, pc := 60, runState := .walk }
      else
        .next { s with hdr := h, hdrValid := true, runState := .fault, fault := some ⟨.malformedHeader, 0, 0⟩ } := by
  have hbad : raise .malformedHeader (latchHeader h s) =
      { s with hdr := h, hdrValid := true, runState := .fault, fault := some ⟨.malformedHeader, 0, 0⟩ } :=
    raise_at_start .malformedHeader hp hi
  rw [step_header hr hs hl, ← hh, ← hbad]
  exact execHdr_eq hr hp hl

/-- Settles O13: a short buffer faults before anything is read; else the step is HDR on the fields read. -/
theorem headerStepLatchesOrFaults : Obligations.HeaderStepLatchesOrFaults := by
  intro s hc hr hs hp hi
  refine ⟨fun hl => ?short, fun hl => ⟨splitHeader s.cfg (s.input.readBytes 0 hdrSize), ?tag, fun k hk => ?field,
    step_header_latches hr hs hp hi hl rfl⟩⟩
  case short => rw [step_header_short hr hs hl, raise_at_start .outOfBounds hp hi]
  case tag => exact splitHeader_tag_toNat s.cfg s.input 0
  case field =>
    obtain ⟨hlen, -, hsum⟩ := legal_layout hc
    rw [splitHeader_fields hc, splitFields_readBytes_getElem? s.input (hlen ▸ hk) hsum.le, Nat.zero_add]

/-! ### Operations that are not due (log 15, log 16) -/

theorem execHdr_not_due {s : State} (h : Header) (hd : headerDue s ≠ true) :
    execHdr h s = .refused .headerOutOfSequence := if_neg hd

theorem exec_kindInstr_not_due {s : State} (k : RecKind) (z : Word32) (hd : recordDue s ≠ true) :
    exec (kindInstr k z) s = .refused .recordOutOfSequence := by
  rw [exec_kindInstr]
  split <;> exact if_neg hd

theorem codeStep_not_due {s : State} (c : Code) (hd : codeDue s ≠ true) :
    codeStep c s = .refused .codeOutOfSequence := if_neg hd

/-- A code that is due and whose index lies past the step table (R21 excludes it; log 15). -/
theorem codeStep_no_entry {s : State} (c : Code) (hd : codeDue s = true) (hlook : s.cfg.stepTable[s.wSi.toNat]? = none) :
    codeStep c s = .fault .noStepEntry := by
  rw [codeStep, if_pos hd, hlook]

/-- The five record operations are those of the five kinds (R82). -/
theorem kindInstr_of_mem {z : Word32} {i : Instr}
    (h : i ∈ [Instr.akey z, .apred z, .vkey z, .vpred z, .vhold z]) : ∃ k, i = kindInstr k z := by
  simp only [List.mem_cons, List.not_mem_nil, or_false] at h
  obtain rfl | rfl | rfl | rfl | rfl := h
  · exact ⟨.audioKeyframe, rfl⟩
  · exact ⟨.audioPredict, rfl⟩
  · exact ⟨.videoKeyframe, rfl⟩
  · exact ⟨.videoPredict, rfl⟩
  · exact ⟨.videoHold, rfl⟩

/-- Settles O23: each operation tests first that it is due. -/
theorem outOfSequenceIsRefused : Obligations.OutOfSequenceIsRefused := by
  refine ⟨fun s h hd => ?hdr, fun s z i hd hi => ?record, fun s i hd hi => ?code, fun s i hr hs hrem hlook hi => ?noEntry⟩
  case hdr =>
    refine execHdr_not_due h ?_
    rw [ne_eq, headerDue_iff]
    tauto
  case record =>
    obtain ⟨k, rfl⟩ := kindInstr_of_mem hi
    refine exec_kindInstr_not_due k z ?_
    rw [ne_eq, recordDue_iff]
    tauto
  case code =>
    obtain ⟨c, rfl⟩ := codeInstr_of_isCode hi
    rw [exec_codeInstr]
    refine codeStep_not_due c ?_
    rw [ne_eq, codeDue_iff, Nat.pos_iff_ne_zero]
    tauto
  case noEntry =>
    obtain ⟨c, rfl⟩ := codeInstr_of_isCode hi
    rw [exec_codeInstr]
    exact codeStep_no_entry c (codeDue_iff.2 ⟨hr, hs, hrem⟩) (List.getElem?_eq_none hlook)

end Sys2Proof.Machine

/-! ## The record header and the first step of a record (41_record_header.md)

The type is decoded before the format (`recKind_audio`, `recKind_video`, `recKind_unmapped`). What AKEY and APRED do on a
record that fits the buffer is one equation each (`exec_akey`, `exec_apred`). That a fault keeps the ledger (`faulted_raise`),
and the output where the record has emitted nothing (`raiseAudio_out_of_none`), is said once. -/

namespace Sys2Proof.Machine

/-! ### Type and format -/

/-- A record of the audio type is of the kind its format says (R121, R122, R123). -/
theorem recKind_audio {cfg : Config} {t f : Half} {z : Word32} (ha : t = cfg.codeAudio) :
    recKind cfg ⟨t, f, z⟩ = recFormat cfg f .audio := by
  rw [recKind, recType, if_pos ha]

/-- A record of the video type is of the kind its format says (R121, R122, R123). -/
theorem recKind_video {cfg : Config} {t f : Half} {z : Word32} (ha : t ≠ cfg.codeAudio) (hv : t = cfg.codeVideo) :
    recKind cfg ⟨t, f, z⟩ = recFormat cfg f .video := by
  rw [recKind, recType, if_neg ha, if_pos hv]

/-- An unmapped type is rejected before the format is looked at (R121, R123). -/
theorem recKind_unmapped {cfg : Config} {t f : Half} {z : Word32} (ha : t ≠ cfg.codeAudio) (hv : t ≠ cfg.codeVideo) :
    recKind cfg ⟨t, f, z⟩ = .error .unknownType := by
  rw [recKind, recType, if_neg ha, if_neg hv]

/-- The bytes of a header decode by its kind (R81, R82). -/
theorem decode_encodeRecHeader (cfg : Config) (h : RecHeader) :
    decode cfg .rh (encodeRecHeader h) = (recKind cfg h).map (kindInstr · h.size) := by
  rw [decode_rh_of_length (Laws.EncodeLength.recHeader h), splitRecHeader_encodeRecHeader]

/-- Settles O8: the type's three cases, and in the two mapped ones the format's. -/
theorem recordKindByTypeThenFormat : Obligations.RecordKindByTypeThenFormat := by
  intro cfg t f z
  rw [decode_encodeRecHeader]
  by_cases haudio : t = cfg.codeAudio
  · rw [recKind_audio haudio, if_pos haudio, recFormat]
    split_ifs <;> rfl
  by_cases hvideo : t = cfg.codeVideo
  · rw [recKind_video haudio hvideo, if_neg haudio, if_pos hvideo, recFormat]
    split_ifs <;> rfl
  · rw [recKind_unmapped haudio hvideo, if_neg haudio, if_neg hvideo]
    rfl

/-- Settles O18: the mode of each kind is a line of `adpcmMode`. -/
theorem adpcmModeOfEachKind : Obligations.AdpcmModeOfEachKind := ⟨rfl, rfl, rfl, rfl, rfl⟩

/-! ### A fault keeps the ledger and what earlier records emitted -/

/-- A fault raised where neither the cursor nor the ledger nor the header registers have moved since `s` (R220, R221). -/
theorem faulted_raise {s u : State} (c : FaultCause) (hp : u.pc = s.pc) (hl : SameLedger s u) (hh : u.hdr = s.hdr)
    (hv : u.hdrValid = s.hdrValid) : Faulted s (raise c u) c := by
  obtain ⟨hi, ha, hn, hb, ho⟩ := hl
  exact ⟨rfl, by simp [hi, hp], hp, ha, hn, hb, hi, ho, hh, hv⟩

/-- A fault of an audio record moves none of them either (R222). -/
theorem faulted_raiseAudio {s u : State} (c : FaultCause) (hp : u.pc = s.pc) (hl : SameLedger s u) (hh : u.hdr = s.hdr)
    (hv : u.hdrValid = s.hdrValid) : Faulted s (raiseAudio c u) c := by
  obtain ⟨hi, ha, hn, hb, ho⟩ := hl
  exact faulted_raise c (u := unsettle u) hp ⟨hi, ha, hn, hb, ho⟩ hh hv

/-- A fault of an audio record that has emitted nothing leaves the output as it is (R222). -/
theorem raiseAudio_out_of_none {u : State} (c : FaultCause) (h : u.recStart = u.out.length) :
    (raiseAudio c u).out = u.out := unsettle_out_of_none h

/-- A fault of an audio record just entered (R193, R195, R196). -/
theorem raiseAudio_enterRecord (c : FaultCause) (k : RecKind) (z : Word32) (s : State) :
    Faulted s (raiseAudio c (enterRecord k z s)) c ∧ (raiseAudio c (enterRecord k z s)).out = s.out :=
  ⟨faulted_raiseAudio c rfl ⟨rfl, rfl, rfl, rfl, rfl⟩ rfl rfl, raiseAudio_out_of_none c rfl⟩

/-- A fault of an audio record whose decode is set up and whose seed is not emitted (R144, R195). -/
theorem raiseAudio_setupDecode (c : FaultCause) (k : RecKind) (z : Word32) (s : State) (a : Nat) :
    Faulted s (raiseAudio c { setupDecode (withSamples k z s) with inp := a }) c
      ∧ (raiseAudio c { setupDecode (withSamples k z s) with inp := a }).out = s.out :=
  ⟨faulted_raiseAudio c rfl ⟨rfl, rfl, rfl, rfl, rfl⟩ rfl rfl, raiseAudio_out_of_none c rfl⟩

/-! ### AKEY -/

/-- The first step of an audio record that fits the buffer (R193, R195, R196). -/
theorem audioRecord_fits {k : RecKind} (hk : isAudio k = true) {z : Word32} {s : State} (hr : s.runState = .walk)
    (hs : s.seq = .fetch) (hw : s.pc + recHdrSize + z.toNat ≤ s.bufLen) :
    audioRecord k z s = .next (if z.toNat < audioSubHdrSize then raiseAudio .outOfBounds (enterRecord k z s)
      else if k = .audioKeyframe then resetStep (setupDecode (withSamples k z s))
      else continueStep (setupDecode (withSamples k z s))) := by
  rw [audioRecord_eq hk hr hs, if_neg (Nat.not_lt.2 hw)]

/-- AKEY on a record that fits the buffer, its tests in the order of R195 (R144, R170, R171). -/
theorem exec_akey {z : Word32} {s : State} (hr : s.runState = .walk) (hs : s.seq = .fetch)
    (hw : s.pc + 8 + z.toNat ≤ s.bufLen) :
    exec (.akey z) s = .next (
      if z.toNat < 4 then raiseAudio .outOfBounds (enterRecord .audioKeyframe z s)
      else if beNat (s.input.readBytes (s.pc + 8) 4) = 0 then
        raiseAudio .badSampleCount (setupDecode (withSamples .audioKeyframe z s))
      else if z.toNat < 6 then raiseAudio .outOfBounds (setupDecode (withSamples .audioKeyframe z s))
      else if 88 < (s.input.read (s.pc + 13)).toNat % 128 then
        raiseAudio .stepIndexRange { setupDecode (withSamples .audioKeyframe z s) with inp := s.pc + 14 }
      else seeded z s) := by
  have hrecord : exec (.akey z) s = audioRecord .audioKeyframe z s := rfl
  rw [hrecord, audioRecord_fits rfl hr hs hw, if_pos rfl, resetStep_setup hw, withSamples_toNat,
    seedStep, seedIndex_toNat]
  rfl

/-- The seed's index register (R144). -/
theorem seedIndex_eq (b : Byte) : seedIndex b = BitVec.ofNat 8 (b.toNat % 128) := by
  rw [← seedIndex_toNat, BitVec.ofNat_toNat, BitVec.setWidth_eq]

/-- Every field of the state the Reset step leaves (R126, R144, R191). -/
theorem seeded_eq (z : Word32) (s : State) {n : Nat} {seed : Sample} (hn : n = beNat (s.input.readBytes (s.pc + 8) 4))
    (hseed : seed = seedSample (s.input.read (s.pc + 12)) (s.input.read (s.pc + 13))) :
    seeded z s = { s with
      recType := s.cfg.codeAudio, recFormat := s.cfg.fmtAudioKeyframe, recSize := z, recValid := true,
      recKind := .audioKeyframe, winEnd := s.pc + 8 + z.toNat, kindValid := true,
      recSamples := BitVec.ofNat 32 n, samplesValid := true, recStart := s.out.length,
      seq := .decode, rem := n - 1, inp := s.pc + 14, phase := .high,
      wPs := seed, wSi := BitVec.ofNat 8 ((s.input.read (s.pc + 13)).toNat % 128),
      out := s.out ++ (if s.dup then [seed, seed] else [seed]) } := by
  subst hn hseed
  rw [seeded, withSamples_toNat, seedIndex_eq]
  rfl

/-- Settles O16, branch by branch of `exec_akey`. -/
theorem akeyResetsFromItsSeed : Obligations.AkeyResetsFromItsSeed := by
  intro s z hr hs hw
  dsimp only
  rw [exec_akey hr hs hw, ← seeded_eq z s rfl (seedSample_eq ..).symm]
  split_ifs
  · exact ⟨_, rfl, raiseAudio_enterRecord .outOfBounds .audioKeyframe z s⟩
  · exact ⟨_, rfl, raiseAudio_setupDecode .badSampleCount .audioKeyframe z s _⟩
  · exact ⟨_, rfl, raiseAudio_setupDecode .outOfBounds .audioKeyframe z s _⟩
  · exact ⟨_, rfl, raiseAudio_setupDecode .stepIndexRange .audioKeyframe z s _⟩
  · rfl

/-! ### APRED -/

/-- APRED on a record that fits the buffer (R143, R196). -/
theorem exec_apred {z : Word32} {s : State} (hr : s.runState = .walk) (hs : s.seq = .fetch)
    (hw : s.pc + 8 + z.toNat ≤ s.bufLen) :
    exec (.apred z) s = .next (
      if z.toNat < 4 then raiseAudio .outOfBounds (enterRecord .audioPredict z s)
      else continueStep (setupDecode (withSamples .audioPredict z s))) := by
  have hrecord : exec (.apred z) s = audioRecord .audioPredict z s := rfl
  rw [hrecord, audioRecord_fits rfl hr hs hw, if_neg (by decide : RecKind.audioPredict ≠ .audioKeyframe)]
  rfl

/-- Every field of the state the Continue setup leaves; its REM is the sample count, which 32 bits hold (R84, R126, R143). -/
theorem continued_eq (z : Word32) (s : State) {n : Nat} (hn : n = beNat (s.input.readBytes (s.pc + 8) 4)) :
    continueStep (setupDecode (withSamples .audioPredict z s)) = { s with
      recType := s.cfg.codeAudio, recFormat := s.cfg.fmtAudioPredict, recSize := z, recValid := true,
      recKind := .audioPredict, winEnd := s.pc + 8 + z.toNat, kindValid := true,
      recSamples := BitVec.ofNat 32 n, samplesValid := true, recStart := s.out.length,
      seq := .decode, rem := n, inp := s.pc + 12, phase := .high, wPs := s.ps, wSi := s.si } := by
  subst hn
  rw [continueStep, setupDecode, withSamples_toNat]
  rfl

/-- Settles O17: the two branches of `exec_apred`. -/
theorem apredContinuesFromTheCarriedState : Obligations.ApredContinuesFromTheCarriedState := by
  intro s z hr hs hw
  dsimp only
  rw [exec_apred hr hs hw, ← continued_eq z s rfl]
  split_ifs
  · exact ⟨_, rfl, raiseAudio_enterRecord .outOfBounds .audioPredict z s⟩
  · rfl

/-! ### The faults of a record fetch -/

/-- The header at the cursor, whose bytes are known, is rejected (R121, R122). -/
theorem step_rejects_encoded {s : State} {h : RecHeader} {r : Reject} (hr : s.runState = .walk) (hs : s.seq = .fetch)
    (hl : s.pc + 8 ≤ s.bufLen) (hbytes : s.input.readBytes s.pc 8 = encodeRecHeader h)
    (hk : recKind s.cfg h = .error r) : step s = .next (rejectRecord h r s) := by
  have hat : headerAt s = h := (congrArg splitRecHeader hbytes).trans (splitRecHeader_encodeRecHeader h)
  subst hat
  exact step_record_rejected hr hs hl hk

/-- A rejected header faults and leaves the output as it is (R120, R212, R220). -/
theorem rejectRecord_faulted (h : RecHeader) (r : Reject) (s : State) :
    Faulted s (rejectRecord h r s) (rejectCause r) ∧ (rejectRecord h r s).out = s.out := by
  unfold rejectRecord
  split
  · exact ⟨faulted_raiseAudio _ rfl ⟨rfl, rfl, rfl, rfl, rfl⟩ rfl rfl, raiseAudio_out_of_none _ rfl⟩
  · exact ⟨faulted_raise _ rfl ⟨rfl, rfl, rfl, rfl, rfl⟩ rfl rfl, rfl⟩

/-- A rejected header stands in the header registers (R120, R212). -/
theorem rejectRecord_registers (h : RecHeader) (r : Reject) (s : State) :
    (rejectRecord h r s).recType = h.typ ∧ (rejectRecord h r s).recFormat = h.fmt
      ∧ (rejectRecord h r s).recSize = h.size := by
  unfold rejectRecord
  split <;> exact ⟨rfl, rfl, rfl⟩

/-- A rejected header that is not of the audio type leaves the persistent ADPCM state (R222; log 8). -/
theorem rejectRecord_adpcm {h : RecHeader} {s : State} (ha : h.typ ≠ s.cfg.codeAudio) (r : Reject) :
    (rejectRecord h r s).ps = s.ps ∧ (rejectRecord h r s).si = s.si := by
  rw [rejectRecord, if_neg ha]
  exact ⟨rfl, rfl⟩

/-- An unmapped format of a mapped type: the fault, the output and the header registers (R122, R212). -/
theorem step_unknownFormat {s : State} {t f : Half} {z : Word32} (hr : s.runState = .walk) (hs : s.seq = .fetch)
    (hl : s.pc + 8 ≤ s.bufLen) (hbytes : s.input.readBytes s.pc 8 = encodeRecHeader ⟨t, f, z⟩)
    (hk : recKind s.cfg ⟨t, f, z⟩ = .error .unknownFormat) :
    ∃ u, step s = .next u ∧ Faulted s u .unknownFormat ∧ u.out = s.out
      ∧ u.recType = t ∧ u.recFormat = f ∧ u.recSize = z := by
  obtain ⟨hfault, hout⟩ := rejectRecord_faulted ⟨t, f, z⟩ .unknownFormat s
  exact ⟨_, step_rejects_encoded hr hs hl hbytes hk, hfault, hout, rejectRecord_registers ..⟩

/-- Settles O19: a short read drops the record registers; else the header's type and format decide. -/
theorem recordFetchFaults : Obligations.RecordFetchFaults := by
  intro s hr hs hp
  refine ⟨fun hl => ?short, fun ty f z hl hbytes => ⟨fun ha hv => ?type, fun ha hkey hpredict => ?audioFormat,
    fun hv ha hkey hpredict hhold => ?videoFormat⟩⟩
  case short =>
    exact ⟨_, step_record_short hr hs hp hl, faulted_raise _ rfl ⟨rfl, rfl, rfl, rfl, rfl⟩ rfl rfl, rfl⟩
  case type =>
    obtain ⟨hfault, hout⟩ := rejectRecord_faulted ⟨ty, f, z⟩ .unknownType s
    obtain ⟨hps, hsi⟩ := rejectRecord_adpcm (h := ⟨ty, f, z⟩) ha .unknownType
    exact ⟨_, step_rejects_encoded hr hs hl hbytes (recKind_unmapped ha hv), hfault, hout, hps, hsi,
      rejectRecord_registers ..⟩
  case audioFormat =>
    refine step_unknownFormat hr hs hl hbytes ?_
    rw [recKind_audio ha, recFormat, if_neg hkey, if_neg hpredict]
  case videoFormat =>
    refine step_unknownFormat hr hs hl hbytes ?_
    rw [recKind_video ha hv, recFormat, if_neg hkey, if_neg hpredict, if_neg hhold]

end Sys2Proof.Machine

/-! ## The ADPCM decoder (42_adpcm_decoder.md)

The invariant is taken apart once: what holds in every run state (`Sound`), what the walk adds (`Walking`), and where a record
being decoded stands (`Decoding`). That every step keeps it is then one goal for each case of `step_cases`. The codes are
brought to the quantizer on the integers (`Decoded`), by induction on the codes left of a record (`Decodes.run`); a whole
predict record plays its codes from the carried state (`predict_plays`). -/

namespace Sys2Proof.Machine

/-! ### The parts of the invariant -/

/-- The part of the invariant that holds whatever the run state is: all that a fault has to find (R220, R222). -/
structure Sound (s : State) : Prop where
  params : ParamsInv s
  index : IndexInv s
  cursor : s.pc ≤ s.bufLen
  count : s.recIndex = s.nAudio + s.nVideo
  slices : s.recOut.length = s.nAudio
  tiled : tiles 0 s.recOut = true
  output : recEnd s.recOut ≤ s.out.length

/-- A sound state in `WALK` (R27, R32, R110). -/
structure Walking (s : State) : Prop where
  sound : Sound s
  walk : s.runState = .walk
  noFault : s.fault = none
  pastHeader : hdrSize ≤ s.pc
  latched : s.hdrValid = true ∧ s.hdr.tag = signature

/-- Where an audio record being decoded stands: its window, its read pointer, what is left to produce and what is produced
(R40, R126, R149, R193). -/
structure Decoding (s : State) : Prop where
  audio : isAudio s.recKind = true
  window : s.winEnd = s.pc + recHdrSize + s.recSize.toNat
  windowFits : s.winEnd ≤ s.bufLen
  inpLow : s.pc + recHdrSize + audioSubHdrSize ≤ s.inp
  inpHigh : s.inp ≤ s.winEnd
  halfRead : s.phase = .low → s.inp < s.winEnd
  left : s.rem ≤ s.recSamples.toNat
  start : s.recStart = recEnd s.recOut
  produced : s.out.length = s.recStart + (s.recSamples.toNat - s.rem) * cellCount s.dup

section Parts

variable {s : State}

theorem BlockInv.sound (h : BlockInv s) : Sound s := by
  obtain ⟨hparams, hindex, ⟨hcursor, -⟩, ⟨hcount, hslices, htiled, houtput, -⟩, -⟩ := h
  exact ⟨hparams, hindex, hcursor, hcount, hslices, htiled, houtput⟩

theorem BlockInv.walking (h : BlockInv s) (hr : s.runState = .walk) : Walking s := by
  have hsound := h.sound
  obtain ⟨-, -, ⟨-, -, hwalk, -⟩, ⟨-, -, -, -, hfault, -⟩, -⟩ := h
  obtain ⟨hpast, hlatched⟩ := hwalk hr
  exact ⟨hsound, hr, by simpa [hr] using hfault, hpast, hlatched⟩

theorem BlockInv.between (h : BlockInv s) (hr : s.runState = .walk) (hs : s.seq = .fetch) :
    s.out.length = recEnd s.recOut := by
  obtain ⟨-, -, -, -, hbetween, -⟩ := h
  exact hbetween ⟨hr, hs⟩

theorem BlockInv.decoding (h : BlockInv s) (hr : s.runState = .walk) (hs : s.seq = .decode) : Decoding s := by
  obtain ⟨-, -, -, -, -, hdecode⟩ := h
  obtain ⟨haudio, hwin, hfits, hlow, hhigh, hhalf, hleft, hstart, hproduced⟩ := hdecode ⟨hr, hs⟩
  exact ⟨haudio, hwin, hfits, hlow, hhigh, hhalf, hleft, hstart, hproduced⟩

theorem BlockInv.legal (h : BlockInv s) : s.cfg.legal = true := by
  obtain ⟨⟨hlegal, -⟩, -⟩ := h
  exact hlegal

/-- Under the invariant the working index has a step size (R21, R146). -/
theorem BlockInv.lookup (h : BlockInv s) :
    s.cfg.stepTable[s.wSi.toNat]? = some (s.cfg.stepTable.getD s.wSi.toNat 0) := by
  have ⟨_, ⟨_, hindex⟩, _⟩ := h
  exact legal_lookup h.legal hindex

/-- In `WALK` the invariant is what the sub-step adds to `Walking`. -/
theorem Walking.blockInv (h : Walking s) (hbetween : s.seq = .fetch → s.out.length = recEnd s.recOut)
    (hdecode : s.seq = .decode → Decoding s) : BlockInv s := by
  obtain ⟨⟨hparams, hindex, hcursor, hcount, hslices, htiled, houtput⟩, hr, hf, hpast, hlatched⟩ := h
  refine ⟨hparams, hindex, ⟨hcursor, ?_, fun _ => ⟨hpast, hlatched⟩, ?_⟩,
    ⟨hcount, hslices, htiled, houtput, ?_, ?_⟩, fun hb => hbetween hb.2, fun hd => ?_⟩
  · simp [hr]
  · simp [hr]
  · simp [hr, hf]
  · simp [hr]
  · obtain ⟨h1, h2, h3, h4, h5, h6, h7, h8, h9⟩ := hdecode hd.2
    exact ⟨h1, h2, h3, h4, h5, h6, h7, h8, h9⟩

/-- A fault raised in a sound state meets the invariant (R220, R221). -/
theorem Sound.raise (h : Sound s) (c : FaultCause) : BlockInv (raise c s) := by
  obtain ⟨hparams, hindex, hcursor, hcount, hslices, htiled, houtput⟩ := h
  refine ⟨hparams, hindex, ⟨hcursor, ?_, ?_, ?_⟩, ⟨hcount, hslices, htiled, houtput, ?_, ?_⟩, ?_, ?_⟩ <;> simp

/-- A fault of an audio record keeps the slices of the records before it (R222). -/
theorem Sound.raiseAudio (h : Sound s) (c : FaultCause) (hstart : recEnd s.recOut ≤ s.recStart) :
    BlockInv (raiseAudio c s) := by
  have hout : recEnd s.recOut ≤ (unsettle s).out.length := by
    have := h.output
    simp only [unsettle_out, List.length_append, List.length_take]
    omega
  have hunsettled : Sound (unsettle s) :=
    ⟨h.params, ⟨unsettle_si_le s, h.index.2⟩, h.cursor, h.count, h.slices, h.tiled, hout⟩
  exact hunsettled.raise c

/-! ### What the operations keep -/

theorem Sound.dropRecord (h : Sound s) : Sound (dropRecord s) :=
  ⟨h.params, h.index, h.cursor, h.count, h.slices, h.tiled, h.output⟩

theorem Sound.latchRecord (h : Sound s) (g : RecHeader) : Sound (latchRecord g s) :=
  ⟨h.params, h.index, h.cursor, h.count, h.slices, h.tiled, h.output⟩

theorem Sound.enterRecord (h : Sound s) (k : RecKind) (z : Word32) : Sound (enterRecord k z s) :=
  ⟨h.params, h.index, h.cursor, h.count, h.slices, h.tiled, h.output⟩

theorem Sound.setupDecode (h : Sound s) (k : RecKind) (z : Word32) (a : Nat) :
    Sound { setupDecode (withSamples k z s) with inp := a } :=
  ⟨h.params, h.index, h.cursor, h.count, h.slices, h.tiled, h.output⟩

/-- The header read at offset 0 fits the layout (R27, R83). -/
theorem Sound.latchHeader (h : Sound s) {g : Header} (hg : g = splitHeader s.cfg (s.input.readBytes 0 hdrSize)) :
    Sound (latchHeader g s) := by
  obtain ⟨⟨hlegal, hwf, hinside, -⟩, hindex, hcursor, hcount, hslices, htiled, houtput⟩ := h
  obtain ⟨-, -, hsum⟩ := legal_layout hlegal
  have hfit : fieldsFit s.cfg.layout g.fields = true := by
    rw [hg, splitHeader_fields hlegal]
    exact fieldsFit_splitFields (by rw [hsum, readBytes_length])
  exact ⟨⟨hlegal, hwf, hinside, hfit⟩, hindex, hcursor, hcount, hslices, htiled, houtput⟩

/-- A rejected header faults with the output of the records before it as it is (R120, R222). -/
theorem Sound.rejectRecord (h : Sound s) (g : RecHeader) (r : Reject) : BlockInv (rejectRecord g r s) := by
  unfold Machine.rejectRecord
  split
  · exact (h.latchRecord g).raiseAudio _ h.output
  · exact (h.latchRecord g).raise _

/-- The end of the buffer, between records (R200). -/
theorem BlockInv.finished (h : BlockInv s) (hr : s.runState = .walk) (hs : s.seq = .fetch) (hp : s.bufLen ≤ s.pc) :
    BlockInv { s with runState := .done } := by
  have hout := h.between hr hs
  obtain ⟨⟨hparams, hindex, hcursor, hcount, hslices, htiled, houtput⟩, -, hf, hpast, hlatched⟩ := h.walking hr
  refine ⟨hparams, hindex, ⟨hcursor, ?_, ?_, fun _ => ⟨Nat.le_antisymm hcursor hp, hlatched⟩⟩,
    ⟨hcount, hslices, htiled, houtput, ?_, fun _ => hout⟩, ?_, ?_⟩ <;> simp [hf]

/-- HDR with a good tag (R110). -/
theorem BlockInv.headerOk (h : BlockInv s) (hr : s.runState = .idle) (hl : hdrSize ≤ s.bufLen) {g : Header}
    (hg : g = splitHeader s.cfg (s.input.readBytes 0 hdrSize)) (htag : g.tag = signature) :
    BlockInv { latchHeader g s with pc := hdrSize, runState := .walk } := by
  obtain ⟨hparams, hindex, -, hcount, hslices, htiled, houtput⟩ := h.sound.latchHeader hg
  obtain ⟨-, -, ⟨-, hidle, -⟩, ⟨-, -, -, -, hfault, -⟩, -⟩ := h
  obtain ⟨-, hseq, -, hout, hrecOut, -⟩ := hidle hr
  have hnone : s.fault = none := by simpa [hr] using hfault
  have hwalking : Walking { latchHeader g s with pc := hdrSize, runState := .walk } :=
    ⟨⟨hparams, hindex, hl, hcount, hslices, htiled, houtput⟩, rfl, hnone, Nat.le_refl _, rfl, htag⟩
  refine hwalking.blockInv (fun _ => ?_) (fun hd => ?_)
  · simp [hout, hrecOut, recEnd]
  · simp [hseq] at hd

/-- A video record skipped (R192, R197 to R199). -/
theorem BlockInv.video (h : BlockInv s) (hr : s.runState = .walk) (hs : s.seq = .fetch) {k : RecKind} {z : Word32}
    (hk : isAudio k = false) (hw : s.pc + recHdrSize + z.toNat ≤ s.bufLen) : BlockInv (complete (enterRecord k z s)) := by
  obtain ⟨⟨hparams, hindex, hcursor, hcount, hslices, htiled, houtput⟩, -, hf, hpast, hlatched⟩ := h.walking hr
  have hout := h.between hr hs
  have heq : complete (enterRecord k z s) = { enterRecord k z s with
      nVideo := s.nVideo + 1, recIndex := s.recIndex + 1, pc := s.pc + recHdrSize + z.toNat, seq := .fetch } :=
    if_neg (by simp [hk])
  rw [heq]
  have hcount' : s.recIndex + 1 = s.nAudio + (s.nVideo + 1) := by omega
  exact Walking.blockInv
    ⟨⟨hparams, hindex, hw, hcount', hslices, htiled, houtput⟩, hr, hf, by simp only; omega, hlatched⟩
    (fun _ => hout) (fun hd => nomatch hd)

/-- The first step of an audio record leaves a decode of `n` samples at the first byte after the sub-header, nothing
emitted (R126, R143, R193). -/
theorem BlockInv.atSetup (h : BlockInv s) (hr : s.runState = .walk) (hs : s.seq = .fetch) {k : RecKind} {z : Word32}
    (hk : isAudio k = true) (hw : s.pc + recHdrSize + z.toNat ≤ s.bufLen) (hz : 4 ≤ z.toNat) :
    Walking (setupDecode (withSamples k z s)) ∧ Decoding (setupDecode (withSamples k z s)) := by
  obtain ⟨hsound, -, hf, hpast, hlatched⟩ := h.walking hr
  have hout := h.between hr hs
  refine ⟨⟨hsound.setupDecode k z _, hr, hf, hpast, hlatched⟩, hk, ?_, hw, Nat.le_refl _, ?_, fun hp => (nomatch hp),
    Nat.le_refl _, hout, ?_⟩
  · simp [withSamples]
  · change s.pc + recHdrSize + audioSubHdrSize ≤ s.pc + recHdrSize + z.toNat
    simp only [audioSubHdrSize]
    omega
  · simp [withSamples]

/-- A predict record's first step (R196). -/
theorem BlockInv.apred (h : BlockInv s) (hr : s.runState = .walk) (hs : s.seq = .fetch) {z : Word32}
    (hw : s.pc + recHdrSize + z.toNat ≤ s.bufLen) (hz : 4 ≤ z.toNat) :
    BlockInv (continueStep (setupDecode (withSamples .audioPredict z s))) := by
  obtain ⟨⟨⟨hparams, hindex, hcursor, hcount, hslices, htiled, houtput⟩, -, hf, hpast, hlatched⟩, hd⟩ :=
    h.atSetup hr hs (k := .audioPredict) rfl hw hz
  obtain ⟨haudio, hwin, hfits, hlow, hhigh, hhalf, hleft, hstart, hproduced⟩ := hd
  exact Walking.blockInv
    ⟨⟨hparams, ⟨hindex.1, hindex.1⟩, hcursor, hcount, hslices, htiled, houtput⟩, hr, hf, hpast, hlatched⟩
    (fun hseq => (nomatch hseq))
    (fun _ => ⟨haudio, hwin, hfits, hlow, hhigh, hhalf, hleft, hstart, hproduced⟩)

/-- A keyframe record's first step: its seed, an index of at most 88, is emitted (R144, R195). -/
theorem BlockInv.akey (h : BlockInv s) (hr : s.runState = .walk) (hs : s.seq = .fetch) {z : Word32}
    (hw : s.pc + recHdrSize + z.toNat ≤ s.bufLen) (hz : 6 ≤ z.toNat)
    (hn : 0 < (withSamples .audioKeyframe z s).recSamples.toNat)
    (hi : (s.input.read (s.pc + 13)).toNat % 128 ≤ siMax) : BlockInv (seeded z s) := by
  obtain ⟨⟨⟨hparams, hindex, hcursor, hcount, hslices, htiled, houtput⟩, -, hf, hpast, hlatched⟩, hd⟩ :=
    h.atSetup hr hs (k := .audioKeyframe) rfl hw (by omega)
  obtain ⟨haudio, hwin, hfits, -, -, -, -, hstart, -⟩ := hd
  have hseed : (seedIndex (s.input.read (s.pc + 13))).toNat ≤ siMax := by rwa [seedIndex_toNat]
  have hlen : (seeded z s).out.length = s.out.length + cellCount s.dup := by
    simp [seeded, withSamples, cellsOf_length]
  have hone : (seeded z s).recSamples.toNat - (seeded z s).rem = 1 := Nat.sub_sub_self hn
  have hwalking : Walking (seeded z s) := by
    refine ⟨⟨hparams, ⟨hindex.1, hseed⟩, hcursor, hcount, hslices, htiled, ?_⟩, hr, hf, hpast, hlatched⟩
    rw [hlen]
    exact Nat.le_trans houtput (Nat.le_add_right _ _)
  refine hwalking.blockInv (fun hseq => nomatch hseq) (fun _ => ⟨haudio, hwin, hfits, ?low, ?high, fun hp => (nomatch hp),
    Nat.sub_le _ _, hstart, ?produced⟩)
  case low => change s.pc + 8 + 4 ≤ s.pc + 14; omega
  case high => change s.pc + 14 ≤ s.pc + 8 + z.toNat; omega
  case produced =>
    rw [hone, Nat.one_mul, hlen]
    rfl

/-- Commit and Complete of an audio record, field by field (R148, R192). -/
theorem finishAudio_eq (hk : isAudio s.recKind = true) :
    finishAudio s = { s with
      ps := s.wPs, si := s.wSi, nAudio := s.nAudio + 1, audioBytes := s.audioBytes + s.recSize.toNat,
      recOut := s.recOut ++ [(s.recStart, s.out.length - s.recStart)], recIndex := s.recIndex + 1,
      pc := s.winEnd, seq := .fetch } := if_pos hk

/-- The end of an audio record: its slice follows the last one and ends where the output ends (R33, R148, R192). -/
theorem BlockInv.finishAudio (h : BlockInv s) (hr : s.runState = .walk) (hs : s.seq = .decode) :
    BlockInv (finishAudio s) := by
  obtain ⟨⟨hparams, hindex, hcursor, hcount, hslices, htiled, houtput⟩, -, hf, hpast, hlatched⟩ := h.walking hr
  obtain ⟨haudio, hwin, hfits, -, -, -, -, hstart, hproduced⟩ := h.decoding hr hs
  rw [finishAudio_eq haudio]
  have hend : s.out.length = recEnd (s.recOut ++ [(s.recStart, s.out.length - s.recStart)]) := by
    rw [recEnd_append]
    simp only
    omega
  have hslices' : (s.recOut ++ [(s.recStart, s.out.length - s.recStart)]).length = s.nAudio + 1 := by
    simp [hslices]
  exact Walking.blockInv
    ⟨⟨hparams, ⟨hindex.2, hindex.2⟩, hfits, by simp only; omega, hslices', (tiles_append ..).2 ⟨htiled, hstart⟩,
      hend.ge⟩, hr, hf, by simp only; omega, hlatched⟩
    (fun _ => hend) (fun hd => nomatch hd)

/-- NextCode keeps the read pointer in the window, and at phase 1 before its end (R145). -/
theorem Decoding.advanceNibble (h : Decoding s) (hw : s.inp + 1 ≤ s.winEnd) : Decoding (advanceNibble s) := by
  obtain ⟨haudio, hwin, hfits, hlow, hhigh, hhalf, hleft, hstart, hproduced⟩ := h
  unfold Machine.advanceNibble
  split
  · exact ⟨haudio, hwin, hfits, hlow, hhigh, fun _ => hw, hleft, hstart, hproduced⟩
  · exact ⟨haudio, hwin, hfits, Nat.le_succ_of_le hlow, hw, fun hp => (nomatch hp), hleft, hstart, hproduced⟩

theorem Walking.advanceNibble (h : Walking s) : Walking (advanceNibble s) := by
  obtain ⟨⟨hparams, hindex, hcursor, hcount, hslices, htiled, houtput⟩, hr, hf, hpast, hlatched⟩ := h
  unfold Machine.advanceNibble
  split <;> exact ⟨⟨hparams, hindex, hcursor, hcount, hslices, htiled, houtput⟩, hr, hf, hpast, hlatched⟩

/-- A code leaves an index of at most 88 and adds its cells to the output (R146, R168 (c)). -/
theorem Walking.code (h : Walking s) (c : Code) (step : Half) : Walking (countSample (afterCode c step s)) := by
  obtain ⟨⟨hparams, hindex, hcursor, hcount, hslices, htiled, houtput⟩, hr, hf, hpast, hlatched⟩ := h
  have hgrows : s.out.length ≤ (countSample (afterCode c step s)).out.length := by simp [afterCode]
  exact ⟨⟨hparams, ⟨hindex.1, nextIndex_le ..⟩, hcursor, hcount, hslices, htiled, Nat.le_trans houtput hgrows⟩,
    hr, hf, hpast, hlatched⟩

/-- A code produces the cells of one of the samples left (R147, R149). -/
theorem Decoding.code (h : Decoding s) (hrem : 0 < s.rem) (c : Code) (step : Half) :
    Decoding (countSample (afterCode c step s)) := by
  obtain ⟨haudio, hwin, hfits, hlow, hhigh, hhalf, hleft, hstart, hproduced⟩ := h
  have hmore : s.recSamples.toNat - (s.rem - 1) = s.recSamples.toNat - s.rem + 1 := by omega
  have hproduced' : (countSample (afterCode c step s)).out.length
      = s.recStart + (s.recSamples.toNat - (s.rem - 1)) * cellCount s.dup := by
    rw [hmore, Nat.succ_mul, ← Nat.add_assoc, ← hproduced]
    simp [afterCode, cellsOf_length]
  exact ⟨haudio, hwin, hfits, hlow, hhigh, hhalf, Nat.le_trans (Nat.sub_le _ _) hleft, hstart, hproduced'⟩

/-- NextCode and a code, in the window (R145, R146, R149). -/
theorem BlockInv.code (h : BlockInv s) (hr : s.runState = .walk) (hs : s.seq = .decode) (hrem : 0 < s.rem)
    (hw : s.inp + 1 ≤ s.winEnd) (c : Code) (step : Half) :
    BlockInv (countSample (afterCode c step (advanceNibble s))) := by
  have hseq : (countSample (afterCode c step (Machine.advanceNibble s))).seq = .decode := (advanceNibble_seq s).trans hs
  have hrem' : 0 < (Machine.advanceNibble s).rem := by rwa [advanceNibble_rem]
  exact ((h.walking hr).advanceNibble.code c step).blockInv (fun hfetch => nomatch hseq.symm.trans hfetch)
    fun _ => ((h.decoding hr hs).advanceNibble hw).code hrem' c step

end Parts

/-- Every situation of the walker keeps the invariant. -/
theorem StepCase.blockInv {s t : State} (hstep : StepCase s t) (h : BlockInv s) : BlockInv t := by
  cases hstep with
  | ended | waiting => exact h
  | headerShort => exact h.sound.raise _
  | headerOk _ hr _ hl hg htag => exact h.headerOk hr hl hg htag
  | headerBad _ _ _ _ hg => exact (h.sound.latchHeader hg).raise _
  | finished hr hs hp => exact h.finished hr hs hp
  | recordShort => exact h.sound.dropRecord.raise _
  | rejected r => exact h.sound.rejectRecord _ r
  | video k z hr hs hk _ _ hw => exact h.video hr hs hk hw
  | videoOver k z => exact (h.sound.enterRecord k z).raise _
  | audioFault k z c u _ _ _ _ _ _ hu =>
    obtain rfl | ⟨a, rfl⟩ := hu
    · exact (h.sound.enterRecord k z).raiseAudio c h.sound.output
    · exact (h.sound.setupDecode k z a).raiseAudio c h.sound.output
  | akey z hr hs _ _ hw hz hn hi => exact h.akey hr hs hw hz hn hi
  | apred z hr hs _ _ hw hz => exact h.apred hr hs hw hz
  | finish hr hs => exact h.finishAudio hr hs
  | codeOutside hr hs => exact h.sound.raiseAudio _ (h.decoding hr hs).start.ge
  | code step' hr hs hrem hw => exact h.code hr hs hrem hw _ step'

/-- Settles O26, by `step_cases`: one lemma for each situation of the walker. -/
theorem everyStepKeepsTheInvariant : Obligations.EveryStepKeepsTheInvariant :=
  fun _ _ h hstep => (step_cases hstep).blockInv h

/-- The invariant holds along a run. -/
theorem BlockInv.runFor {n : Nat} {s t : State} (h : BlockInv s) (hrun : runFor n s = .next t) : BlockInv t := by
  induction n generalizing s with
  | zero =>
    cases hrun
    exact h
  | succ n ih =>
    obtain ⟨u, hstep, hrest⟩ := runFor_succ_next hrun
    exact ih (everyStepKeepsTheInvariant s u h hstep) hrest


/-! ### NextCode -/

/-- Inside an audio record with samples to produce, a byte in the window gives the code at `INP` and `PHASE` (R145). -/
theorem fetch_code {s : State} (hr : s.runState = .walk) (hs : s.seq = .decode) (hrem : 0 < s.rem)
    (hw : s.inp + 1 ≤ s.winEnd) (hb : s.inp + 1 ≤ s.bufLen) :
    fetch s = .run (codeInstr (codeAt s)) (advanceNibble s) := by
  have hread : memReadW s s.inp 1 = some (s.input.read s.inp).toNat :=
    memReadW_eq_some.2 ⟨hw, hb, by simp [Memory.readBytes, beNat]⟩
  simp only [fetch, fetchCode, hr, hs, hread, if_neg hrem.ne', BitVec.ofNat_toNat, BitVec.setWidth_eq, decode_code]

/-- Settles O11, by `fetch_code` at each phase; the invariant has `INP` in the window at phase 1. -/
theorem nextCodeTakesHighNibbleFirst : Obligations.NextCodeTakesHighNibbleFirst := by
  intro s hr hs hrem
  refine ⟨fun hw hb hp => ?high, fun hw hb hp => ?low, fun hw => ?outside, fun h => (h.decoding hr hs).halfRead⟩
  case high => rw [fetch_code hr hs hrem hw hb, codeAt, advanceNibble, hp, nibble_high]
  case low => rw [fetch_code hr hs hrem hw hb, codeAt, advanceNibble, hp, nibble_low]
  case outside =>
    exact ⟨_, step_code_outside hr hs hrem (.inl hw), faulted_raiseAudio _ rfl ⟨rfl, rfl, rfl, rfl, rfl⟩ rfl rfl⟩

/-! ### Commit -/

/-- Settles O20: with no sample left the step is Commit, then Complete. -/
theorem audioRecordCompletes : Obligations.AudioRecordCompletes := fun _ hr hs hrem hk =>
  (step_finish hr hs hrem).trans (congrArg _ (finishAudio_eq hk))

/-- A step faults, or ends an audio record, or leaves `x[PS]` and `x[SI]` as they are (R22, R148). -/
theorem StepCase.adpcm {s t : State} (h : StepCase s t) :
    t.runState = .fault ∨ (s.runState = .walk ∧ s.seq = .decode ∧ s.rem = 0) ∨ (t.ps = s.ps ∧ t.si = s.si) := by
  cases h with
  | ended | waiting | headerOk | finished | akey | apred => exact .inr (.inr ⟨rfl, rfl⟩)
  | headerShort | headerBad | recordShort | videoOver | audioFault | codeOutside => exact .inl rfl
  | rejected r => exact .inl (rejectRecord_runState _ r s)
  | video k z => exact .inr (.inr ⟨complete_ps _, complete_si _⟩)
  | finish hr hs hrem => exact .inr (.inl ⟨hr, hs, hrem⟩)
  | code => exact .inr (.inr ⟨advanceNibble_ps s, advanceNibble_si s⟩)

/-- Settles O36: the step that ends an audio record commits; for every other one, `StepCase.adpcm`. -/
theorem adpcmStateChangesOnlyByCommit : Obligations.AdpcmStateChangesOnlyByCommit := by
  intro s t hstep hrun
  split
  · rename_i hend
    obtain ⟨hr, hs, hrem⟩ := hend
    rw [step_finish hr hs hrem] at hstep
    cases hstep
    exact ⟨complete_ps _, complete_si _⟩
  · rename_i hend
    obtain hfault | hfinish | hsame := (step_cases hstep).adpcm
    · exact absurd hfault hrun
    · exact absurd hfinish hend
    · exact hsame

/-! ### The codes -/

/-- A code that is due runs with the step size at its index: the sample takes the difference with saturation, the index its
step, clamped (R146, R151). -/
theorem exec_codeInstr_effect {s : State} (hr : s.runState = .walk) (hs : s.seq = .decode) (hrem : 0 < s.rem)
    (hc : s.cfg.legal = true) (hi : s.wSi.toNat ≤ 88) (c : Code) :
    ∃ t, exec (codeInstr c) s = .next t
      ∧ CodeEffect s t (refDiff c (s.cfg.stepTable.getD s.wSi.toNat 0).toNat) (refDelta c) := by
  refine ⟨_, (exec_codeInstr c s).trans (codeStep_eq hr hs hrem (legal_lookup hc hi)), ?_, ?_, rfl, rfl⟩
  · rw [← difference_eq]
    exact nextSample_toInt ..
  · rw [← indexDelta_eq]
    exact nextIndex_toNat ..

/-- Settles O21: the difference and the index step of C0 to C7 by their bits. -/
theorem positiveCodes : Obligations.PositiveCodes := by
  intro s hr hs hrem hc hi
  have run := exec_codeInstr_effect hr hs hrem hc hi
  exact ⟨run 0x0, run 0x1, run 0x2, run 0x3, run 0x4, run 0x5, run 0x6, run 0x7⟩

/-- Settles O22: the difference and the index step of C8 to CF by their bits. -/
theorem negativeCodes : Obligations.NegativeCodes := by
  intro s hr hs hrem hc hi
  have run := exec_codeInstr_effect hr hs hrem hc hi
  exact ⟨run 0x8, run 0x9, run 0xA, run 0xB, run 0xC, run 0xD, run 0xE, run 0xF⟩

/-! ### A Reset record forgets the state before it -/

/-- `s` with another persistent ADPCM state (R168 (a)). -/
def withAdpcm (p : Sample) (i : BitVec 8) (s : State) : State := { s with ps := p, si := i }

theorem advanceNibble_withAdpcm (p : Sample) (i : BitVec 8) (s : State) :
    advanceNibble (withAdpcm p i s) = withAdpcm p i (advanceNibble s) := by
  have hphase : (withAdpcm p i s).phase = s.phase := rfl
  unfold advanceNibble
  rw [hphase]
  split <;> rfl

/-- A run that ends in `WALK` has not faulted at its first step. -/
theorem runFor_ne_fault {n : Nat} {u t : State} (h : runFor n u = .next t) (ht : t.runState = .walk) :
    u.runState ≠ .fault := by
  intro hfault
  rw [runFor_ended n (.inr hfault)] at h
  cases h
  exact absurd (hfault.symm.trans ht) (by decide)

/-- The rest of an audio record ends in the same state whatever `x[PS]`, `x[SI]` are: its codes use `W_PS`, `W_SI` and its
commit overwrites both (R146, R148). By induction on the codes left. -/
theorem runFor_withAdpcm_of_decodes {a k n : Nat} {s t : State} (p : Sample) (i : BitVec 8) (hd : Decodes a k n s)
    (hrun : runFor (n + 1) s = .next t) (ht : t.runState = .walk) : runFor (n + 1) (withAdpcm p i s) = .next t := by
  induction n generalizing k s with
  | zero =>
    have hfinish : step s = .next (finishAudio s) := step_finish hd.walk hd.seq hd.rem
    rw [runFor_succ 0 hfinish] at hrun
    exact (runFor_succ 0 (step_finish (s := withAdpcm p i s) hd.walk hd.seq hd.rem)).trans hrun
  | succ n ih =>
    obtain ⟨u, hstep, hrest⟩ := runFor_succ_next hrun
    have hrem : 0 < s.rem := hd.rem ▸ Nat.succ_pos n
    obtain ⟨-, rfl⟩ | ⟨hw, hb, step', hlook, rfl⟩ := step_code_next hd.walk hd.seq hrem hstep
    · exact absurd rfl (runFor_ne_fault hrest ht)
    · have hcode : countSample (afterCode (codeAt (withAdpcm p i s)) step' (advanceNibble (withAdpcm p i s)))
          = withAdpcm p i (countSample (afterCode (codeAt s) step' (advanceNibble s))) := by
        rw [advanceNibble_withAdpcm]
        rfl
      rw [runFor_succ _ (step_code_runs (s := withAdpcm p i s) hd.walk hd.seq hrem hw hb hlook), hcode]
      exact ih (hd.afterCode _ step') hrest

/-- What a keyframe record needs to load its seed: its payload lies in the buffer and holds a sub-header and a seed, it has a
sample, and the seed's index is at most 88 (R144, R193, R195). -/
structure Seeds (z : Word32) (s : State) : Prop where
  fits : s.pc + 8 + z.toNat ≤ s.bufLen
  size : 6 ≤ z.toNat
  samples : samplesAt s s.pc ≠ 0
  index : (s.input.read (s.pc + 13)).toNat % 128 ≤ 88

theorem Seeds.audioRecord {z : Word32} {s : State} (h : Seeds z s) (hr : s.runState = .walk) (hs : s.seq = .fetch) :
    audioRecord .audioKeyframe z s = .next (seeded z s) := by
  have hsize := h.size
  have hsamples : beNat (s.input.readBytes (s.pc + 8) 4) ≠ 0 := h.samples
  refine (exec_akey hr hs h.fits).trans (congrArg _ ?_)
  rw [if_neg (by omega), if_neg hsamples, if_neg (by omega), if_neg (Nat.not_lt.2 h.index)]

/-- The first step of a keyframe record faults, or its seed is loaded (R144, R195). -/
theorem audioRecord_keyframe_next {z : Word32} {s u : State} (he : audioRecord .audioKeyframe z s = .next u) :
    u.runState = .fault ∨ (Seeds z s ∧ u = seeded z s) := by
  obtain ⟨hr, hs⟩ := audioRecord_next he
  rw [audioRecord_eq rfl hr hs] at he
  cases he
  split
  · exact .inl rfl
  rename_i hw
  split
  · exact .inl rfl
  rw [if_pos rfl]
  obtain ⟨hn, hz, hi, heq⟩ | ⟨c, a, -, heq⟩ := resetStep_cases (Nat.le_of_not_lt hw)
  · rw [withSamples_toNat] at hn
    exact .inr ⟨⟨Nat.le_of_not_lt hw, hz, hn.ne', hi⟩, heq⟩
  · exact .inl (by rw [heq]; rfl)

/-- Settles O44: the first step loads the seed whatever `x[PS]`, `x[SI]` are, and the steps after it commit what the codes make
of the seed. -/
theorem resetRecordForgetsPriorState : Obligations.ResetRecordForgetsPriorState := by
  intro s t z p i hr hs hl hc hrec hn hrun ht
  change runFor _ (withAdpcm p i s) = .next t
  obtain ⟨u, hstep, hrest⟩ := runFor_succ_next hrun
  have hu := runFor_ne_fault hrest ht
  have hfirst : audioRecord .audioKeyframe z s = .next u := (step_recordAt hr hs hl hc hrec).symm.trans hstep
  obtain ⟨hseeds, rfl⟩ := (audioRecord_keyframe_next hfirst).resolve_left hu
  obtain ⟨-, hd⟩ := (audioRecord_keyframe_decodes hfirst).resolve_left hu
  have hseeds' : Seeds z (withAdpcm p i s) := ⟨hseeds.fits, hseeds.size, hseeds.samples, hseeds.index⟩
  have hstep' : step (withAdpcm p i s) = .next (withAdpcm p i (seeded z s)) :=
    (step_recordAt (s := withAdpcm p i s) hr hs hl hc hrec).trans (hseeds'.audioRecord hr hs)
  rw [runFor_succ _ hstep']
  obtain ⟨n, hn'⟩ := Nat.exists_eq_succ_of_ne_zero hn.ne'
  rw [hn'] at hrest hd ⊢
  exact runFor_withAdpcm_of_decodes p i hd hrest ht

/-! ### A stream of codes decoded -/

/-- The `n` codes of the stream at `a` from the `k`-th on (R87). -/
def codesAfter (m : Memory) (a k n : Nat) : List Code := (List.range' k n).map (streamCode m a)

theorem codesAfter_succ (m : Memory) (a k n : Nat) :
    codesAfter m a k (n + 1) = streamCode m a k :: codesAfter m a (k + 1) n := by
  rw [codesAfter, List.range'_succ, List.map_cons, codesAfter]

theorem codesAfter_zero (m : Memory) (a n : Nat) : codesAfter m a 0 n = codesFrom m a n := by
  rw [codesAfter, ← List.range_eq_range', codesFrom_eq_map]

/-- The working state of the decoder as numbers (R40). -/
def working (s : State) : Int × Nat := (s.wPs.toInt, s.wSi.toNat)

/-- A code moves the working state by the quantizer on the integers (R146). -/
theorem working_afterCode {s : State} {step : Half} (c : Code) (hlook : s.cfg.stepTable[s.wSi.toNat]? = some step) :
    working (afterCode c step s) = refStep s.cfg.stepTable (working s) c := by
  have hstep : s.cfg.stepTable.getD s.wSi.toNat 0 = step := by rw [List.getD_eq_getElem?_getD, hlook, Option.getD_some]
  have hps : (nextSample s.wPs (difference c step.toNat)).toInt
      = max (-32768) (min 32767 (s.wPs.toInt + refDiff c step.toNat)) := by
    rw [nextSample_toInt, difference_eq]
  have hsi : (nextIndex s.wSi (indexDelta c)).toNat = (max 0 (min 88 ((s.wSi.toNat : Int) + refDelta c))).toNat := by
    rw [← indexDelta_eq, ← nextIndex_toNat, Int.toNat_natCast]
  simp only [working, refStep, hstep]
  exact Prod.ext hps hsi

theorem outInts_emit (v : Sample) (s : State) : outInts (emit v s) = outInts s ++ fanOut s.dup [v.toInt] := by
  cases hdup : s.dup <;> simp [outInts, cellsOf, fanOut, hdup]

theorem fanOut_append (dup : Bool) (vs ws : List Int) : fanOut dup (vs ++ ws) = fanOut dup vs ++ fanOut dup ws :=
  List.flatMap_append

theorem refSamples_append (table : List Half) (q : Int × Nat) (cs ds : List Code) :
    refSamples table q (cs ++ ds) = refSamples table q cs ++ refSamples table (refFinal table q cs) ds := by
  induction cs generalizing q with
  | nil => rfl
  | cons c cs ih => simp only [List.cons_append, refSamples, ih, refFinal, List.foldl_cons]

theorem refFinal_append (table : List Half) (q : Int × Nat) (cs ds : List Code) :
    refFinal table q (cs ++ ds) = refFinal table (refFinal table q cs) ds := List.foldl_append

/-- `u` is `s` with the codes `cs` decoded: the working state and the output are those the codes produce, and beside the
working registers and the output nothing has changed (R146, R149). -/
structure Decoded (cs : List Code) (s u : State) : Prop where
  state : working u = refFinal s.cfg.stepTable (working s) cs
  output : outInts u = outInts s ++ fanOut s.dup (refSamples s.cfg.stepTable (working s) cs)
  frame : u = { s with
    wPs := u.wPs, wSi := u.wSi, rem := u.rem, inp := u.inp, phase := u.phase, out := u.out }

theorem Decoded.nil (s : State) : Decoded [] s s := ⟨rfl, (List.append_nil _).symm, rfl⟩

theorem Decoded.trans {cs ds : List Code} {s u v : State} (h : Decoded cs s u) (h' : Decoded ds u v) :
    Decoded (cs ++ ds) s v := by
  have hcfg : u.cfg = s.cfg := by rw [h.frame]
  have hdup : u.dup = s.dup := by rw [h.frame]
  refine ⟨?_, ?_, ?_⟩
  · rw [h'.state, hcfg, h.state, refFinal_append]
  · rw [h'.output, h.output, hcfg, hdup, h.state, refSamples_append, fanOut_append, List.append_assoc]
  · have hv := h'.frame
    rw [h.frame] at hv
    exact hv

/-- One code decodes its list of one (R146). -/
theorem Decoded.code {s : State} {step : Half} (c : Code) (hlook : s.cfg.stepTable[s.wSi.toNat]? = some step) :
    Decoded [c] s (countSample (afterCode c step (advanceNibble s))) := by
  have hlook' : (advanceNibble s).cfg.stepTable[(advanceNibble s).wSi.toNat]? = some step := by simpa using hlook
  have hwork : working (advanceNibble s) = working s := by simp [working]
  have hout : outInts (advanceNibble s) = outInts s := by simp [outInts]
  have hstate : working (afterCode c step (advanceNibble s)) = refStep s.cfg.stepTable (working s) c := by
    rw [working_afterCode c hlook', advanceNibble_cfg, hwork]
  have hemit : outInts (afterCode c step (advanceNibble s)) = outInts (advanceNibble s)
      ++ fanOut (advanceNibble s).dup [(working (afterCode c step (advanceNibble s))).1] := outInts_emit ..
  rw [hout, advanceNibble_dup, hstate] at hemit
  refine ⟨hstate, hemit, ?_⟩
  unfold advanceNibble
  split <;> rfl

/-- Codes whose bytes all lie in the window run, one step each (R149). By induction on the codes left. -/
theorem Decodes.run {a k n : Nat} {s : State} (hd : Decodes a k n s) (h : BlockInv s)
    (hw : a + (k + n + 1) / 2 ≤ s.winEnd) :
    ∃ u, runFor n s = .next u ∧ Decodes a (k + n) 0 u ∧ Decoded (codesAfter s.input a k n) s u := by
  induction n generalizing k s with
  | zero => exact ⟨s, rfl, hd, .nil s⟩
  | succ n ih =>
    have hrem : 0 < s.rem := hd.rem ▸ Nat.succ_pos n
    have hin : s.inp + 1 ≤ s.winEnd := by
      have := hd.inp
      omega
    have hbuf : s.inp + 1 ≤ s.bufLen := Nat.le_trans hin (h.decoding hd.walk hd.seq).windowFits
    have hstep := step_code_runs hd.walk hd.seq hrem hin hbuf h.lookup
    have hone := Decoded.code (Machine.codeAt s) h.lookup
    have hnext := hd.afterCode (Machine.codeAt s) (s.cfg.stepTable.getD s.wSi.toNat 0)
    have hinv := everyStepKeepsTheInvariant _ _ h hstep
    generalize countSample _ = v at hstep hone hnext hinv
    have hinput : v.input = s.input := by rw [hone.frame]
    have hwin : v.winEnd = s.winEnd := by rw [hone.frame]
    obtain ⟨u, hrun, hdu, hrest⟩ := ih hnext hinv (by rw [hwin]; omega)
    rw [hinput] at hrest
    refine ⟨u, (runFor_succ n hstep).trans hrun, Nat.add_right_comm k 1 n ▸ hdu, ?_⟩
    rw [codesAfter_succ, ← hd.codeAt]
    exact hone.trans hrest

/-- `t` ends the audio record that `v` decodes, after the codes `cs`: the working state is committed, the record counted, its
slice of the output entered, the cursor at the end of its window (R148, R149, R192). -/
structure Completed (cs : List Code) (v t : State) : Prop where
  state : adpcm t = refFinal v.cfg.stepTable (working v) cs
  output : outInts t = outInts v ++ fanOut v.dup (refSamples v.cfg.stepTable (working v) cs)
  frame : t = { v with
    nAudio := v.nAudio + 1, audioBytes := v.audioBytes + v.recSize.toNat,
    recOut := v.recOut ++ [(v.recStart, t.out.length - v.recStart)], recIndex := v.recIndex + 1,
    pc := v.winEnd, seq := .fetch,
    wPs := t.wPs, wSi := t.wSi, rem := t.rem, inp := t.inp, phase := t.phase, out := t.out, ps := t.ps, si := t.si }

theorem Completed.sameRun {cs : List Code} {v t : State} (h : Completed cs v t) : SameRun v t := by
  rw [h.frame]
  exact .of_fields rfl rfl rfl rfl

/-- After the record the walker stands at the end of its window, between records (R191, R192). -/
theorem Completed.cursor {cs : List Code} {v t : State} (h : Completed cs v t) :
    t.runState = v.runState ∧ t.seq = .fetch ∧ t.pc = v.winEnd := by
  rw [h.frame]
  exact ⟨rfl, rfl, rfl⟩

/-- An audio record whose codes all lie in its window completes, one step for each code and one for its end (R149). -/
theorem Decodes.completes {a n : Nat} {v : State} (hd : Decodes a 0 n v) (h : BlockInv v)
    (hw : a + (n + 1) / 2 ≤ v.winEnd) :
    ∃ t, runFor (n + 1) v = .next t ∧ Completed (codesFrom v.input a n) v t := by
  obtain ⟨u, hrun, hdu, hdec⟩ := hd.run h (by rwa [Nat.zero_add])
  rw [codesAfter_zero] at hdec
  have haudio : isAudio u.recKind = true := ((h.runFor hrun).decoding hdu.walk hdu.seq).audio
  have hend : runFor 1 u = .next (finishAudio u) := runFor_succ 0 (step_finish hdu.walk hdu.seq hdu.rem)
  rw [finishAudio_eq haudio] at hend
  refine ⟨_, (runFor_add 1 hrun).trans hend, hdec.state, hdec.output, ?_⟩
  conv_lhs => rw [hdec.frame]

/-- A predict record that fits, its codes in its window, completes from the carried state (R196). -/
theorem predict_completes {s : State} {z : Word32} {n : Nat} (h : BlockInv s) (hr : s.runState = .walk)
    (hs : s.seq = .fetch) (hfits : s.pc + 8 + z.toNat ≤ s.bufLen) (hrec : recordAt s s.pc .audioPredict z)
    (hn : samplesAt s s.pc = n) (hz : 4 + (n + 1) / 2 ≤ z.toNat) :
    ∃ t, runFor (n + 2) s = .next t
      ∧ Completed (codesFrom s.input (s.pc + 12) n) (continueStep (setupDecode (withSamples .audioPredict z s))) t := by
  subst hn
  have hstep : step s = .next (continueStep (setupDecode (withSamples .audioPredict z s))) := by
    refine (step_recordAt hr hs (by omega) (legal_codes h.legal) hrec).trans ?_
    exact (exec_apred hr hs hfits).trans (congrArg _ (if_neg (by omega)))
  have hd : Decodes (s.pc + 12) 0 (samplesAt s s.pc) (continueStep (setupDecode (withSamples .audioPredict z s))) :=
    ⟨hr, rfl, withSamples_toNat .audioPredict z s, rfl, rfl⟩
  have hw : s.pc + 12 + (samplesAt s s.pc + 1) / 2 ≤ s.pc + 8 + z.toNat := by omega
  obtain ⟨t, hrun, hdone⟩ := hd.completes (everyStepKeepsTheInvariant _ _ h hstep) hw
  exact ⟨t, (runFor_succ _ hstep).trans hrun, hdone⟩

/-! ### The state carried from record to record -/

/-- The run from `s` to `t` plays the codes `cs` from the state `s` carries: `t` carries the state they end in, and the output
has their samples appended (R168 (d)). -/
structure Plays (cs : List Code) (s t : State) : Prop where
  sameRun : SameRun s t
  state : adpcm t = refFinal s.cfg.stepTable (adpcm s) cs
  output : outInts t = outInts s ++ fanOut s.dup (refSamples s.cfg.stepTable (adpcm s) cs)

/-- Codes played one list after the other are played like the joined list. -/
theorem Plays.trans {cs ds : List Code} {s u t : State} (h : Plays cs s u) (h' : Plays ds u t) : Plays (cs ++ ds) s t := by
  obtain ⟨-, hin, hbuf, hdup, hcfg⟩ := h.sameRun
  obtain ⟨-, hin', hbuf', hdup', hcfg'⟩ := h'.sameRun
  refine ⟨.of_fields (hin'.trans hin) (hbuf'.trans hbuf) (hdup'.trans hdup) (hcfg'.trans hcfg), ?_, ?_⟩
  · rw [h'.state, hcfg, h.state, refFinal_append]
  · rw [h'.output, hcfg, hdup, h.state, h.output, refSamples_append, fanOut_append, List.append_assoc]

/-- What a run appends to the output, as signed numbers, is the samples played. -/
theorem Plays.map_toInt_drop {cs : List Code} {s t : State} (h : Plays cs s t) :
    (t.out.drop s.out.length).map BitVec.toInt = fanOut s.dup (refSamples s.cfg.stepTable (adpcm s) cs) := by
  have hlen : (outInts s).length = s.out.length := List.length_map _
  rw [List.map_drop, ← outInts, h.output]
  exact List.drop_left' hlen

/-- The same codes played from the same carried state, table and `DUP` append the same cells and carry on the same state. -/
theorem Plays.agree {cs : List Code} {s t s' t' : State} (h : Plays cs s t) (h' : Plays cs s' t') (hcfg : s'.cfg = s.cfg)
    (hdup : s'.dup = s.dup) (hstart : adpcm s' = adpcm s) :
    t.out.drop s.out.length = t'.out.drop s'.out.length ∧ t.ps = t'.ps ∧ t.si = t'.si := by
  have hout : (t.out.drop s.out.length).map BitVec.toInt = (t'.out.drop s'.out.length).map BitVec.toInt := by
    rw [h.map_toInt_drop, h'.map_toInt_drop, hcfg, hdup, hstart]
  have hstate : adpcm t = adpcm t' := by rw [h.state, h'.state, hcfg, hstart]
  obtain ⟨hps, hsi⟩ := Prod.ext_iff.1 hstate
  exact ⟨List.map_injective_iff.2 (fun _ _ => BitVec.eq_of_toInt_eq) hout, BitVec.eq_of_toInt_eq hps,
    BitVec.eq_of_toNat_eq hsi⟩

/-- A predict record that fits plays its codes and leaves the walker at its end (R168 (d), R196). -/
theorem predict_plays {s : State} {z : Word32} {n : Nat} (h : BlockInv s) (hr : s.runState = .walk) (hs : s.seq = .fetch)
    (hfits : s.pc + 8 + z.toNat ≤ s.bufLen) (hrec : recordAt s s.pc .audioPredict z) (hn : samplesAt s s.pc = n)
    (hz : 4 + (n + 1) / 2 ≤ z.toNat) :
    ∃ t, runFor (n + 2) s = .next t ∧ t.runState = .walk ∧ t.seq = .fetch ∧ t.pc = s.pc + 8 + z.toNat
      ∧ Plays (codesFrom s.input (s.pc + 12) n) s t := by
  obtain ⟨t, hrun, hdone⟩ := predict_completes h hr hs hfits hrec hn hz
  obtain ⟨hrt, hst, hpc⟩ := hdone.cursor
  exact ⟨t, hrun, hrt.trans hr, hst, hpc, hdone.sameRun, hdone.state, hdone.output⟩

theorem SameRun.recordAt_iff {s t : State} (h : SameRun s t) (p : Nat) (k : RecKind) (z : Word32) :
    recordAt t p k z ↔ recordAt s p k z := by
  obtain ⟨-, hin, -, -, hcfg⟩ := h
  rw [recordAt, recordAt, hin, hcfg]

theorem SameRun.samplesAt_eq {s t : State} (h : SameRun s t) (p : Nat) : samplesAt t p = samplesAt s p := by
  obtain ⟨-, hin, -⟩ := h
  rw [samplesAt, samplesAt, hin]

/-- Settles O45: the second record starts from what the first one committed, so the two play the codes of the first and then
those of the second, which the one record plays (R168 (d)). -/
theorem continuityAcrossRecords : Obligations.ContinuityAcrossRecords := by
  intro s s' zA zB z' h h' hr hs hr' hs' hcfg hdup hps hsi pB nA nB hfitsB hfits' hrecA hrecB hrec' hsizeA hsizeB hsize'
    hn' hcodes
  have hfitsA : pB ≤ s.bufLen := by omega
  have hstart : adpcm s' = adpcm s := by rw [adpcm, adpcm, hps, hsi]
  obtain ⟨u, hrunA, hru, hsu, hpc, hA⟩ := predict_plays h hr hs hfitsA hrecA rfl hsizeA
  obtain ⟨-, hin, hbuf, -, -⟩ := hA.sameRun
  have hrecB' : recordAt u u.pc .audioPredict zB := (hA.sameRun.recordAt_iff ..).2 (hpc ▸ hrecB)
  have hnB : samplesAt u u.pc = nB := by rw [hA.sameRun.samplesAt_eq, hpc]
  obtain ⟨t, hrunB, hrt, -, -, hB⟩ :=
    predict_plays (h.runFor hrunA) hru hsu (by rw [hpc, hbuf]; exact hfitsB) hrecB' hnB hsizeB
  obtain ⟨t', hrun', hrt', -, -, hC⟩ := predict_plays h' hr' hs' hfits' hrec' hn' hsize'
  rw [hin, hpc] at hB
  rw [hcodes] at hC
  exact ⟨t, t', (runFor_add _ hrunA).trans hrunB, hrun', hrt, hrt', (hA.trans hB).agree hC hcfg hdup hstart⟩

end Sys2Proof.Machine

/-! ## The container walker (43_container_walker.md)

A step at bytes that decode is the decoded operation, and under the invariant every step answers; a measure of the nibbles
the block may still read (`stepsLeft`) goes down with every step of a run. The state an audio record's first step leaves
(`Entered`) and the codes after it (`Decodes`) decide how the whole record ends: completed, or out of its window. -/

namespace Sys2Proof.Machine

/-! ### A step runs the decoded operation -/

/-- Sixty bytes at offset 0 decode to HDR, whatever their tag (R83, R110). -/
theorem decode_header (s : State) :
    decode s.cfg .ch (s.input.readBytes 0 hdrSize) = .ok (.hdr (splitHeader s.cfg (s.input.readBytes 0 hdrSize))) := by
  simp [decode, decodeCh]

/-- Settles O10: the decoder's answer at each of the three places is the operation the step runs there. -/
theorem stepRunsTheDecodedInstruction : Obligations.StepRunsTheDecodedInstruction := by
  refine ⟨fun s i hr hs hl hdec => ?header, fun s i hr hs hl hdec => ?record, fun s i hr hs hrem hw hb hdec => ?code⟩
  case header =>
    cases (decode_header s).symm.trans hdec
    exact step_header hr hs hl
  case record =>
    have hrec := (decode_record s).symm.trans hdec
    cases hk : recKind s.cfg (headerAt s) with
    | ok k =>
      rw [hk] at hrec
      cases hrec
      exact step_record hr hs hl hk
    | error r =>
      rw [hk] at hrec
      cases hrec
  case code =>
    cases (decode_code s).symm.trans hdec
    rw [step_code hr hs hrem hw hb, exec_codeInstr]
    cases codeStep (codeAt s) (advanceNibble s) <;> rfl

/-! ### The window of a record -/

/-- A video record skipped, field by field (R192, R197 to R199). -/
theorem complete_video {k : RecKind} (hk : isAudio k = false) (z : Word32) {s : State} (hs : s.seq = .fetch) :
    complete (enterRecord k z s) = { enterRecord k z s with
      nVideo := s.nVideo + 1, recIndex := s.recIndex + 1, pc := s.pc + recHdrSize + z.toNat } := by
  have hvideo : ¬ isAudio (enterRecord k z s).recKind = true := by simp [hk]
  rw [complete, if_neg hvideo, ← hs]
  rfl

/-- A video operation whose payload lies inside the buffer skips its record (R193, R197 to R199). -/
theorem exec_video_fits {k : RecKind} (hk : isAudio k = false) {z : Word32} {s : State} (hr : s.runState = .walk)
    (hs : s.seq = .fetch) (hw : s.pc + recHdrSize + z.toNat ≤ s.bufLen) :
    exec (kindInstr k z) s = .next { enterRecord k z s with
      nVideo := s.nVideo + 1, recIndex := s.recIndex + 1, pc := s.pc + recHdrSize + z.toNat } := by
  rw [exec_kindInstr, hk, if_neg Bool.false_ne_true, videoRecord_eq hr hs, if_pos hw, complete_video hk z hs]

/-- Settles O14: the three video operations differ in their kind alone. -/
theorem videoRecordsAreSkipped : Obligations.VideoRecordsAreSkipped := fun _ _ hr hs hw =>
  ⟨exec_video_fits (k := .videoKeyframe) rfl hr hs hw, exec_video_fits (k := .videoPredict) rfl hr hs hw,
    exec_video_fits (k := .videoHold) rfl hr hs hw⟩

/-- A record operation whose payload ends past the buffer (R193). -/
theorem exec_overrun (k : RecKind) {z : Word32} {s : State} (hr : s.runState = .walk) (hs : s.seq = .fetch)
    (hw : s.bufLen < s.pc + recHdrSize + z.toNat) :
    exec (kindInstr k z) s = .next (if isAudio k then raiseAudio .outOfBounds (enterRecord k z s)
      else raise .outOfBounds (enterRecord k z s)) := by
  rw [exec_kindInstr]
  cases hk : isAudio k with
  | true => rw [if_pos rfl, if_pos rfl, audioRecord_eq hk hr hs, if_pos hw]
  | false =>
    rw [if_neg Bool.false_ne_true, if_neg Bool.false_ne_true, videoRecord_eq hr hs, if_neg (Nat.not_le.2 hw)]

theorem kindInstr_video {k : RecKind} {z : Word32} (h : kindInstr k z ∈ [Instr.vkey z, .vpred z, .vhold z]) :
    isAudio k = false := by
  cases k with
  | audioKeyframe | audioPredict => simp [kindInstr] at h
  | videoKeyframe | videoPredict | videoHold => rfl

/-- Settles O15: the record is entered and the fault raised; only an audio record's leaves `x[PS]` and `x[SI]` open. -/
theorem windowOverrunFaults : Obligations.WindowOverrunFaults := by
  intro s z i hr hs hw hi
  obtain ⟨k, rfl⟩ := kindInstr_of_mem hi
  refine ⟨_, exec_overrun k hr hs hw, ?_⟩
  cases hk : isAudio k with
  | true =>
    obtain ⟨hfault, hout⟩ := raiseAudio_enterRecord .outOfBounds k z s
    exact ⟨hfault, hout, .of_fields rfl rfl rfl rfl, fun hv => absurd (hk.symm.trans (kindInstr_video hv)) (by decide)⟩
  | false =>
    exact ⟨faulted_raise _ rfl ⟨rfl, rfl, rfl, rfl, rfl⟩ rfl rfl, rfl, .of_fields rfl rfl rfl rfl, fun _ => ⟨rfl, rfl⟩⟩

/-! ### Every step answers -/

theorem exec_kindInstr_answers (k : RecKind) (z : Word32) {s : State} (hr : s.runState = .walk) (hs : s.seq = .fetch) :
    ∃ t, exec (kindInstr k z) s = .next t := by
  rw [exec_kindInstr]
  cases hk : isAudio k with
  | true => exact ⟨_, audioRecord_eq hk hr hs⟩
  | false => exact ⟨_, videoRecord_eq hr hs⟩

theorem execHdr_answers (h : Header) {s : State} (hr : s.runState = .idle) (hp : s.pc = 0) (hl : hdrSize ≤ s.bufLen) :
    ∃ t, execHdr h s = .next t := by
  rw [execHdr_eq hr hp hl]
  split <;> exact ⟨_, rfl⟩

/-- In `IDLE` the cursor and the sub-step are those of the reset (R24, R44). -/
theorem BlockInv.idle {s : State} (h : BlockInv s) (hr : s.runState = .idle) : s.pc = 0 ∧ s.seq = .fetch := by
  obtain ⟨-, -, ⟨-, hidle, -⟩, -⟩ := h
  obtain ⟨hp, hs, -⟩ := hidle hr
  exact ⟨hp, hs⟩

theorem step_answers_between_records {s : State} (hr : s.runState = .walk) (hs : s.seq = .fetch) :
    ∃ t, step s = .next t := by
  by_cases hp : s.bufLen ≤ s.pc
  · exact ⟨_, step_done hr hs hp⟩
  by_cases hl : s.bufLen < s.pc + recHdrSize
  · exact ⟨_, step_record_short hr hs (Nat.lt_of_not_le hp) hl⟩
  have hfit : s.pc + recHdrSize ≤ s.bufLen := Nat.le_of_not_lt hl
  cases hk : recKind s.cfg (headerAt s) with
  | error r => exact ⟨_, step_record_rejected hr hs hfit hk⟩
  | ok k =>
    rw [step_record hr hs hfit hk]
    exact exec_kindInstr_answers k _ hr hs

/-- Inside an audio record the invariant gives the working index a step size (R21, R146). -/
theorem step_answers_in_record {s : State} (h : BlockInv s) (hr : s.runState = .walk) (hs : s.seq = .decode) :
    ∃ t, step s = .next t := by
  by_cases hz : s.rem = 0
  · exact ⟨_, step_finish hr hs hz⟩
  have hrem : 0 < s.rem := Nat.pos_of_ne_zero hz
  by_cases hw : s.inp + 1 ≤ s.winEnd
  · exact ⟨_, step_code_runs hr hs hrem hw (Nat.le_trans hw (h.decoding hr hs).windowFits) h.lookup⟩
  · exact ⟨_, step_code_outside hr hs hrem (.inl (Nat.lt_of_not_le hw))⟩

/-- Settles O27: one situation of the walker after the other. -/
theorem stepsNeverStopUnderTheInvariant : Obligations.StepsNeverStopUnderTheInvariant := by
  intro s h
  cases hr : s.runState with
  | idle =>
    cases hs : s.started with
    | false => exact ⟨_, step_waiting hr hs⟩
    | true =>
      by_cases hl : s.bufLen < hdrSize
      · exact ⟨_, step_header_short hr hs hl⟩
      · obtain ⟨hp, -⟩ := h.idle hr
        rw [step_header hr hs (Nat.le_of_not_lt hl)]
        exact execHdr_answers _ hr hp (Nat.le_of_not_lt hl)
  | walk =>
    cases hs : s.seq with
    | fetch => exact step_answers_between_records hr hs
    | decode => exact step_answers_in_record h hr hs
  | done => exact ⟨_, step_ended (.inl hr)⟩
  | fault => exact ⟨_, step_ended (.inr hr)⟩

/-! ### The end of the buffer -/

/-- A step leaves the state as it is, or faults, or walks on, or ends the run at the end of the buffer (R31, R200). -/
theorem StepCase.runState {s t : State} (h : StepCase s t) :
    t = s ∨ t.runState = .fault ∨ t.runState = .walk
      ∨ (s.runState = .walk ∧ s.seq = .fetch ∧ s.bufLen ≤ s.pc ∧ t.runState = .done) := by
  cases h with
  | ended | waiting => exact .inl rfl
  | headerShort | headerBad | recordShort | videoOver | audioFault | codeOutside => exact .inr (.inl rfl)
  | rejected r => exact .inr (.inl (rejectRecord_runState _ r s))
  | headerOk => exact .inr (.inr (.inl rfl))
  | akey _ hr | apred _ hr => exact .inr (.inr (.inl hr))
  | video k z hr => exact .inr (.inr (.inl ((complete_runState _).trans hr)))
  | finish hr => exact .inr (.inr (.inl ((complete_runState _).trans hr)))
  | code _ hr => exact .inr (.inr (.inl ((advanceNibble_runState s).trans hr)))
  | finished hr hs hp => exact .inr (.inr (.inr ⟨hr, hs, hp, rfl⟩))

/-- Settles O38: by `StepCase.runState`. -/
theorem doneExactlyAtTheEndOfTheBuffer : Obligations.DoneExactlyAtTheEndOfTheBuffer := by
  refine ⟨fun s hr hs hp => step_done hr hs hp, fun s t hne hstep hdone => ?_⟩
  obtain rfl | hfault | hwalk | ⟨hr, hs, hp, -⟩ := (step_cases hstep).runState
  · exact absurd hdone hne
  · exact absurd (hfault.symm.trans hdone) (by decide)
  · exact absurd (hwalk.symm.trans hdone) (by decide)
  · exact ⟨hr, hs, hp⟩

/-! ### Every run ends -/

/-- The nibbles from the read pointer to the end of the buffer (R40, R145). -/
def unreadNibbles (s : State) : Nat :=
  match s.phase with
  | .high => 2 * (s.bufLen - s.inp)
  | .low => 2 * (s.bufLen - s.inp) - 1

theorem unreadNibbles_high {s : State} (hp : s.phase = .high) : unreadNibbles s = 2 * (s.bufLen - s.inp) := by
  rw [unreadNibbles, hp]

theorem unreadNibbles_low {s : State} (hp : s.phase = .low) : unreadNibbles s = 2 * (s.bufLen - s.inp) - 1 := by
  rw [unreadNibbles, hp]

theorem unreadNibbles_le (s : State) : unreadNibbles s ≤ 2 * s.bufLen := by
  unfold unreadNibbles
  split <;> omega

/-- NextCode moves past one nibble (R145). -/
theorem unreadNibbles_advanceNibble {s : State} (hb : s.inp + 1 ≤ s.bufLen) :
    unreadNibbles (advanceNibble s) + 1 = unreadNibbles s := by
  cases hp : s.phase with
  | high =>
    rw [unreadNibbles_low (advanceNibble_phase_high s hp), unreadNibbles_high hp, advanceNibble_bufLen,
      advanceNibble_inp_high s hp]
    omega
  | low =>
    rw [unreadNibbles_high (advanceNibble_phase_low s hp), unreadNibbles_low hp, advanceNibble_bufLen,
      advanceNibble_inp_low s hp]
    omega

/-- The bytes after a record are not read inside it (R193). -/
theorem Decoding.unreadNibbles_ge {s : State} (h : Decoding s) : 2 * (s.bufLen - s.winEnd) ≤ unreadNibbles s := by
  have hfits := h.windowFits
  have hhigh := h.inpHigh
  cases hp : s.phase with
  | high =>
    rw [unreadNibbles_high hp]
    omega
  | low =>
    have hhalf := h.halfRead hp
    rw [unreadNibbles_low hp]
    omega

/-- A bound on the steps a started run still takes: each step reads a nibble or more, but for the header, the end of a record
and the end of the run (R200, R201, R203). -/
def stepsLeft (s : State) : Nat :=
  match s.runState, s.seq with
  | .idle, _ => 2 * s.bufLen + 2
  | .walk, .fetch => 2 * (s.bufLen - s.pc) + 1
  | .walk, .decode => unreadNibbles s + 2
  | .done, _ => 0
  | .fault, _ => 0

theorem stepsLeft_idle {s : State} (hr : s.runState = .idle) : stepsLeft s = 2 * s.bufLen + 2 := by
  simp only [stepsLeft, hr]

theorem stepsLeft_fetch {s : State} (hr : s.runState = .walk) (hs : s.seq = .fetch) :
    stepsLeft s = 2 * (s.bufLen - s.pc) + 1 := by
  simp only [stepsLeft, hr, hs]

/-- After Complete the walker stands at the end of the record's window (R192). -/
theorem stepsLeft_complete {u : State} (hr : u.runState = .walk) :
    stepsLeft (complete u) = 2 * (u.bufLen - u.winEnd) + 1 := by
  rw [stepsLeft_fetch ((complete_runState u).trans hr) (complete_seq u), complete_bufLen, complete_pc]

theorem stepsLeft_decode {s : State} (hr : s.runState = .walk) (hs : s.seq = .decode) :
    stepsLeft s = unreadNibbles s + 2 := by
  simp only [stepsLeft, hr, hs]

theorem stepsLeft_le (s : State) : stepsLeft s ≤ 2 * s.bufLen + 2 := by
  have := unreadNibbles_le s
  unfold stepsLeft
  split <;> omega

/-- No step is left exactly when the run has ended (R31). -/
theorem stepsLeft_eq_zero_iff {s : State} : stepsLeft s = 0 ↔ s.runState = .done ∨ s.runState = .fault := by
  unfold stepsLeft
  split <;> simp_all

theorem stepsLeft_of_fault {s : State} (hr : s.runState = .fault) : stepsLeft s = 0 := stepsLeft_eq_zero_iff.2 (.inr hr)

/-- A step of a started run that has not ended leaves fewer steps. -/
theorem StepCase.stepsLeft_lt {s t : State} (hstep : StepCase s t) (h : BlockInv s)
    (hstarted : s.runState = .idle → s.started = true) (hlive : stepsLeft s ≠ 0) : stepsLeft t < stepsLeft s := by
  have hpos : 0 < stepsLeft s := Nat.pos_of_ne_zero hlive
  cases hstep with
  | ended hr => exact absurd (stepsLeft_eq_zero_iff.2 hr) hlive
  | waiting hr hs => exact absurd (hs.symm.trans (hstarted hr)) Bool.false_ne_true
  | headerShort | headerBad | recordShort | videoOver | audioFault | codeOutside =>
    rwa [stepsLeft_of_fault rfl]
  | rejected r => rwa [stepsLeft_of_fault (rejectRecord_runState _ r s)]
  | finished => exact hpos
  | headerOk g hr =>
    obtain ⟨-, hseq⟩ := h.idle hr
    have hleft : stepsLeft { latchHeader g s with pc := hdrSize, runState := .walk } = 2 * (s.bufLen - hdrSize) + 1 :=
      stepsLeft_fetch rfl hseq
    rw [stepsLeft_idle hr, hleft]
    omega
  | video k z hr hs _ _ _ hw =>
    rw [stepsLeft_fetch hr hs, stepsLeft_complete (u := enterRecord k z s) hr]
    simp only [enterRecord_bufLen, enterRecord_winEnd, recHdrSize] at hw ⊢
    omega
  | akey z hr hs _ _ hw =>
    have hleft : stepsLeft (seeded z s) = 2 * (s.bufLen - (s.pc + 14)) + 2 := stepsLeft_decode hr rfl
    rw [stepsLeft_fetch hr hs, hleft]
    simp only [recHdrSize] at hw
    omega
  | apred z hr hs _ _ hw =>
    have hleft : stepsLeft (continueStep (setupDecode (withSamples .audioPredict z s)))
        = 2 * (s.bufLen - (s.pc + 12)) + 2 := stepsLeft_decode hr rfl
    rw [stepsLeft_fetch hr hs, hleft]
    simp only [recHdrSize] at hw
    omega
  | finish hr hs =>
    have hread := (h.decoding hr hs).unreadNibbles_ge
    have hleft : stepsLeft (finishAudio s) = 2 * (s.bufLen - s.winEnd) + 1 := stepsLeft_complete (u := commit s) hr
    rw [stepsLeft_decode hr hs, hleft]
    omega
  | code step' hr hs _ _ hb =>
    have hread := unreadNibbles_advanceNibble hb
    have hleft : stepsLeft (countSample (afterCode (codeAt s) step' (advanceNibble s)))
        = unreadNibbles (advanceNibble s) + 2 :=
      stepsLeft_decode ((advanceNibble_runState s).trans hr) ((advanceNibble_seq s).trans hs)
    rw [stepsLeft_decode hr hs, hleft]
    omega

/-- A step of a started run that has not ended leaves `IDLE`, as it leaves fewer steps (R31). -/
theorem StepCase.not_idle {s t : State} (hstep : StepCase s t) (hless : stepsLeft t < stepsLeft s) :
    t.runState ≠ .idle := by
  intro hidle
  obtain rfl | hfault | hwalk | ⟨-, -, -, hdone⟩ := hstep.runState
  · exact absurd hless (Nat.lt_irrefl _)
  · exact absurd (hfault.symm.trans hidle) (by decide)
  · exact absurd (hwalk.symm.trans hidle) (by decide)
  · exact absurd (hdone.symm.trans hidle) (by decide)

/-- A started run has ended after as many steps as `stepsLeft` bounds. By induction on the bound. -/
theorem runFor_ends {n : Nat} {s : State} (h : BlockInv s) (hstarted : s.runState = .idle → s.started = true)
    (hn : stepsLeft s ≤ n) : ∃ t, runFor n s = .next t ∧ (t.runState = .done ∨ t.runState = .fault) := by
  induction n generalizing s with
  | zero => exact ⟨s, rfl, stepsLeft_eq_zero_iff.1 (Nat.le_zero.1 hn)⟩
  | succ n ih =>
    by_cases hlive : stepsLeft s = 0
    · have hended := stepsLeft_eq_zero_iff.1 hlive
      exact ⟨s, runFor_ended _ hended, hended⟩
    obtain ⟨u, hstep⟩ := stepsNeverStopUnderTheInvariant s h
    have hcase := step_cases hstep
    have hless := hcase.stepsLeft_lt h hstarted hlive
    rw [runFor_succ n hstep]
    exact ih (hcase.blockInv h) (fun hidle => absurd hidle (hcase.not_idle hless)) (by omega)

/-- Settles O28: `stepsLeft` is at most `2 * BUF_LEN + 2`. -/
theorem everyRunTerminates : Obligations.EveryRunTerminates := fun s h hstarted =>
  runFor_ends h hstarted ((stepsLeft_le s).trans (Nat.le_add_right _ 2))

/-! ### Whole audio records -/

/-- The run from `s` ends in the fault `c` with the output of `s` kept (R220, R222). -/
def FaultsWith (s : State) (c : FaultCause) : Prop :=
  ∃ k t, runFor k s = .next t ∧ Faulted s t c ∧ t.out.take s.out.length = s.out

/-- A record that faults in its first step, nothing emitted. -/
theorem FaultsWith.of_step {s t : State} {c : FaultCause} (hstep : step s = .next t)
    (h : Faulted s t c ∧ t.out = s.out) : FaultsWith s c := by
  obtain ⟨hfault, hout⟩ := h
  exact ⟨1, t, runFor_succ 0 hstep, hfault, by rw [hout, List.take_length]⟩

/-- `v` stands inside the audio record of size `z` at the cursor of `s`: the record is entered, the samples `vs` are emitted,
and cursor, ledger and header registers are those of `s` (R191, R192). -/
structure Entered (z : Word32) (vs : List Int) (s v : State) : Prop where
  walk : v.runState = .walk
  pc : v.pc = s.pc
  ledger : SameLedger s v
  hdr : v.hdr = s.hdr
  hdrValid : v.hdrValid = s.hdrValid
  fault : v.fault = s.fault
  sameRun : SameRun s v
  size : v.recSize = z
  window : v.winEnd = s.pc + 8 + z.toNat
  start : v.recStart = s.out.length
  output : outInts v = outInts s ++ fanOut s.dup vs

/-- APRED's first step emits nothing (R196). -/
theorem Entered.predict {z : Word32} {s : State} (hr : s.runState = .walk) :
    Entered z [] s (continueStep (setupDecode (withSamples .audioPredict z s))) :=
  ⟨hr, rfl, ⟨rfl, rfl, rfl, rfl, rfl⟩, rfl, rfl, rfl, .of_fields rfl rfl rfl rfl, rfl, rfl, rfl, (List.append_nil _).symm⟩

/-- The seed of a keyframe record as a sample value (R85, R144). -/
def seedValue (s : State) : Int := (seedSample (s.input.read (s.pc + 12)) (s.input.read (s.pc + 13))).toInt

/-- AKEY's first step emits the seed (R195). -/
theorem Entered.keyframe {z : Word32} {s : State} (hr : s.runState = .walk) :
    Entered z [seedValue s] s (seeded z s) :=
  ⟨hr, rfl, ⟨rfl, rfl, rfl, rfl, rfl⟩, rfl, rfl, rfl, .of_fields rfl rfl rfl rfl, rfl, rfl, rfl, outInts_emit ..⟩

theorem working_seeded (z : Word32) (s : State) :
    working (seeded z s) = (seedValue s, (s.input.read (s.pc + 13)).toNat % 128) :=
  Prod.ext rfl (seedIndex_toNat _)

/-- Codes decoded inside the record emit their samples (R146, R149). -/
theorem Entered.decoded {z : Word32} {vs : List Int} {cs : List Code} {s v u : State} (h : Entered z vs s v)
    (hd : Decoded cs v u) : Entered z (vs ++ refSamples v.cfg.stepTable (working v) cs) s u := by
  obtain ⟨hr, hpc, ⟨hi, ha, hv, hb, ho⟩, hh, hhv, hf, ⟨hread, hin, hbuf, hdup, hcfg⟩, hz, hw, hs, hout⟩ := h
  have hout' := hd.output
  rw [hout, hdup, List.append_assoc, ← fanOut_append] at hout'
  rw [hd.frame] at hout' ⊢
  exact ⟨hr, hpc, ⟨hi, ha, hv, hb, ho⟩, hh, hhv, hf, ⟨hread, hin, hbuf, hdup, hcfg⟩, hz, hw, hs, hout'⟩

/-- The output of the records before stands before that of the record (R33, R58). -/
theorem Entered.take_out {z : Word32} {vs : List Int} {s v : State} (h : Entered z vs s v) :
    v.out.take s.out.length = s.out := by
  have hlen : (outInts s).length = s.out.length := List.length_map _
  have htake : (v.out.take s.out.length).map BitVec.toInt = outInts s := by
    rw [List.map_take, ← outInts, h.output]
    exact List.take_left' hlen
  exact List.map_injective_iff.2 (fun _ _ => BitVec.eq_of_toInt_eq) htake

/-- A fault inside the record (R220 to R222). -/
theorem Entered.faulted {z : Word32} {vs : List Int} {s v : State} (h : Entered z vs s v) (c : FaultCause) :
    Faulted s (raiseAudio c v) c ∧ (raiseAudio c v).out.take s.out.length = s.out := by
  refine ⟨faulted_raiseAudio c h.pc h.ledger h.hdr h.hdrValid, ?_⟩
  have hout : (raiseAudio c v).out = v.out.take v.recStart ++ freeTail v.freeCtr (v.out.length - v.recStart) := rfl
  rw [hout, h.start, h.take_out, List.take_left]

/-- Codes whose bytes do not all lie in the window run until the first one outside, which is `OutOfBounds` (R145, R150). By
induction on the codes left. -/
theorem Decodes.outside {a k n : Nat} {s : State} (hd : Decodes a k n s) (h : BlockInv s)
    (hw : s.winEnd < a + (k + n + 1) / 2) :
    ∃ j cs u, runFor j s = .next (raiseAudio .outOfBounds u) ∧ Decoded cs s u := by
  have hinp := hd.inp
  induction n generalizing k s with
  | zero =>
    have hdec := h.decoding hd.walk hd.seq
    have hhigh := hdec.inpHigh
    have hodd : k % 2 ≠ 0 := by omega
    have hhalf := hdec.halfRead (hd.phase.trans (if_neg hodd))
    omega
  | succ n ih =>
    have hrem : 0 < s.rem := hd.rem ▸ Nat.succ_pos n
    by_cases hin : s.inp + 1 ≤ s.winEnd
    · have hbuf : s.inp + 1 ≤ s.bufLen := Nat.le_trans hin (h.decoding hd.walk hd.seq).windowFits
      have hstep := step_code_runs hd.walk hd.seq hrem hin hbuf h.lookup
      have hone := Decoded.code (Machine.codeAt s) h.lookup
      have hnext := hd.afterCode (Machine.codeAt s) (s.cfg.stepTable.getD s.wSi.toNat 0)
      have hinv := everyStepKeepsTheInvariant _ _ h hstep
      generalize countSample _ = v at hstep hone hnext hinv
      have hwin : v.winEnd = s.winEnd := by rw [hone.frame]
      obtain ⟨j, cs, u, hrun, hrest⟩ := ih hnext hinv (by rw [hwin]; omega) hnext.inp
      exact ⟨j + 1, _, u, (runFor_succ j hstep).trans hrun, hone.trans hrest⟩
    · exact ⟨1, [], s, runFor_succ 0 (step_code_outside hd.walk hd.seq hrem (.inl (Nat.lt_of_not_le hin))), .nil s⟩

/-- An audio record with too few code bytes ends in `OutOfBounds` (R145, R150, R193). -/
theorem Entered.faultsWith {z : Word32} {vs : List Int} {s v : State} {a n : Nat} (h : Entered z vs s v)
    (hstep : step s = .next v) (hinv : BlockInv s) (hd : Decodes a 0 n v) (hw : s.pc + 8 + z.toNat < a + (n + 1) / 2) :
    FaultsWith s .outOfBounds := by
  obtain ⟨j, cs, u, hrun, hdec⟩ := hd.outside (everyStepKeepsTheInvariant _ _ hinv hstep)
    (by rwa [h.window, Nat.zero_add])
  exact ⟨j + 1, _, (runFor_succ j hstep).trans hrun, (h.decoded hdec).faulted .outOfBounds⟩

theorem length_fanOut (dup : Bool) (vs : List Int) : (fanOut dup vs).length = vs.length * cellCount dup := by
  induction vs with
  | nil => exact (Nat.zero_mul _).symm
  | cons v vs ih =>
    have hcons : fanOut dup (v :: vs) = fanOut dup [v] ++ fanOut dup vs := fanOut_append dup [v] vs
    have hone : (fanOut dup [v]).length = cellCount dup := by cases dup <;> rfl
    rw [hcons, List.length_append, ih, hone, List.length_cons, Nat.succ_mul, Nat.add_comm]

theorem length_refSamples (table : List Half) (q : Int × Nat) (cs : List Code) :
    (refSamples table q cs).length = cs.length := by
  induction cs generalizing q with
  | nil => rfl
  | cons c cs ih => rw [refSamples, List.length_cons, ih, List.length_cons]

theorem length_codesFrom (m : Memory) (a n : Nat) : (codesFrom m a n).length = n := by
  rw [codesFrom_eq_map, List.length_map, List.length_range]

/-- What a completed audio record of `n` samples leaves, the first of them `vs` and the others those of its codes (R148,
R149, R192). -/
theorem Entered.completed {z : Word32} {vs : List Int} {cs : List Code} {s v t : State} {n : Nat} (h : Entered z vs s v)
    (hdone : Completed cs v t) (hfault : s.fault = none) (hn : vs.length + cs.length = n) :
    t.runState = .walk ∧ t.seq = .fetch ∧ t.pc = s.pc + 8 + z.toNat
      ∧ outInts t = outInts s ++ fanOut s.dup (vs ++ refSamples s.cfg.stepTable (working v) cs)
      ∧ adpcm t = refFinal s.cfg.stepTable (working v) cs
      ∧ t.nAudio = s.nAudio + 1 ∧ t.nVideo = s.nVideo ∧ t.audioBytes = s.audioBytes + z.toNat
      ∧ t.recIndex = s.recIndex + 1 ∧ t.recOut = s.recOut ++ [(s.out.length, n * cellCount s.dup)]
      ∧ t.fault = none ∧ t.hdr = s.hdr ∧ SameRun s t := by
  obtain ⟨hr, hpc, ⟨hi, ha, hv, hb, ho⟩, hh, -, hf, ⟨hread, hin, hbuf, hdup, hcfg⟩, hz, hw, hs, hout⟩ := h
  have hout' := hdone.output
  rw [hout, hdup, hcfg, List.append_assoc, ← fanOut_append] at hout'
  have hcells : t.out.length - s.out.length = n * cellCount s.dup := by
    have hlen := congrArg List.length hout'
    rw [List.length_append, length_fanOut, List.length_append, length_refSamples, hn, outInts, outInts, List.length_map,
      List.length_map] at hlen
    omega
  have hstate := hdone.state
  rw [hcfg] at hstate
  refine ⟨?_, ?_, ?_, hout', hstate, ?_, ?_, ?_, ?_, ?_, ?_, ?_, ?_⟩ <;> rw [hdone.frame]
  · exact hr
  · exact hw
  · exact congrArg (· + 1) ha
  · exact hv
  · simp only [hb, hz]
  · exact congrArg (· + 1) hi
  · simp only [ho, hs, hcells]
  · exact hf.trans hfault
  · exact hh
  · exact ⟨hread, hin, hbuf, hdup, hcfg⟩

/-- A record of an audio kind whose payload ends past the buffer (R193). -/
theorem FaultsWith.of_overrun {s : State} {k : RecKind} {z : Word32} (hk : isAudio k = true)
    (hstep : step s = exec (kindInstr k z) s) (hr : s.runState = .walk) (hs : s.seq = .fetch)
    (hw : s.bufLen < s.pc + 8 + z.toNat) : FaultsWith s .outOfBounds := by
  have hexec := exec_overrun k hr hs hw
  rw [if_pos hk] at hexec
  exact .of_step (hstep.trans hexec) (raiseAudio_enterRecord .outOfBounds k z s)

/-! ### APRED -/

/-- After APRED's first step all its codes are left (R196). -/
theorem Decodes.predict (z : Word32) {s : State} (hr : s.runState = .walk) :
    Decodes (s.pc + 12) 0 (samplesAt s s.pc) (continueStep (setupDecode (withSamples .audioPredict z s))) :=
  ⟨hr, rfl, withSamples_toNat .audioPredict z s, rfl, rfl⟩

theorem working_continued (z : Word32) (s : State) :
    working (continueStep (setupDecode (withSamples .audioPredict z s))) = adpcm s := rfl

/-- Settles O43: the window and the size by APRED's first step, the codes by the bytes the window has for them. -/
theorem wholePredictRecord : Obligations.WholePredictRecord := by
  intro s z h hr hs hl hrec
  have hstep : step s = exec (.apred z) s := step_recordAt hr hs hl (legal_codes h.legal) hrec
  dsimp only
  split
  case isTrue hover => exact FaultsWith.of_overrun (k := .audioPredict) rfl hstep hr hs hover
  rename_i hover
  have hw : s.pc + 8 + z.toNat ≤ s.bufLen := Nat.le_of_not_lt hover
  rw [exec_apred hr hs hw] at hstep
  split_ifs at hstep ⊢ with hz hshort
  · exact FaultsWith.of_step hstep (raiseAudio_enterRecord .outOfBounds .audioPredict z s)
  · exact (Entered.predict hr).faultsWith hstep h (.predict z hr) (by omega)
  · obtain ⟨t, hrun, hdone⟩ := predict_completes h hr hs hw hrec rfl (by omega)
    have hrecord := (Entered.predict hr).completed hdone (h.walking hr).noFault
      ((Nat.zero_add _).trans (length_codesFrom ..))
    rw [working_continued, List.nil_append] at hrecord
    exact ⟨t, hrun, hrecord⟩

/-! ### AKEY -/

/-- After AKEY's first step all its codes are left, one fewer than its samples (R195). -/
theorem Decodes.keyframe (z : Word32) {s : State} (hr : s.runState = .walk) :
    Decodes (s.pc + 14) 0 (samplesAt s s.pc - 1) (seeded z s) :=
  ⟨hr, rfl, congrArg (· - 1) (withSamples_toNat .audioKeyframe z s), rfl, rfl⟩

/-- A keyframe record whose seed is loaded and whose codes lie in its window completes (R195). -/
theorem keyframe_completes {s : State} {z : Word32} (h : BlockInv s) (hr : s.runState = .walk)
    (hstep : step s = .next (seeded z s)) (hn : samplesAt s s.pc ≠ 0) (hz : 6 + samplesAt s s.pc / 2 ≤ z.toNat) :
    ∃ t, runFor (samplesAt s s.pc + 1) s = .next t
      ∧ Completed (codesFrom s.input (s.pc + 14) (samplesAt s s.pc - 1)) (seeded z s) t := by
  have hw : s.pc + 14 + (samplesAt s s.pc - 1 + 1) / 2 ≤ s.pc + 8 + z.toNat := by omega
  obtain ⟨t, hrun, hdone⟩ := (Decodes.keyframe z hr).completes (everyStepKeepsTheInvariant _ _ h hstep) hw
  rw [Nat.sub_add_cancel (Nat.pos_of_ne_zero hn)] at hrun
  exact ⟨t, (runFor_succ _ hstep).trans hrun, hdone⟩

/-- Settles O42: the tests up to the seed's by AKEY's first step, the codes by the bytes the window has for them. -/
theorem wholeKeyframeRecord : Obligations.WholeKeyframeRecord := by
  intro s z h hr hs hl hrec
  have hstep : step s = exec (.akey z) s := step_recordAt hr hs hl (legal_codes h.legal) hrec
  have hcount : beNat (s.input.readBytes (s.pc + 8) 4) = samplesAt s s.pc := rfl
  dsimp only
  split
  case isTrue hover => exact FaultsWith.of_overrun (k := .audioKeyframe) rfl hstep hr hs hover
  rename_i hover
  rw [exec_akey hr hs (Nat.le_of_not_lt hover), hcount] at hstep
  rw [← seedSample_eq]
  split_ifs at hstep ⊢ with hz hn hseed hi hshort
  · exact FaultsWith.of_step hstep (raiseAudio_enterRecord .outOfBounds .audioKeyframe z s)
  · exact FaultsWith.of_step hstep (raiseAudio_setupDecode .badSampleCount .audioKeyframe z s _)
  · exact FaultsWith.of_step hstep (raiseAudio_setupDecode .outOfBounds .audioKeyframe z s _)
  · exact FaultsWith.of_step hstep (raiseAudio_setupDecode .stepIndexRange .audioKeyframe z s _)
  · exact (Entered.keyframe hr).faultsWith hstep h (.keyframe z hr) (by omega)
  · obtain ⟨t, hrun, hdone⟩ := keyframe_completes h hr hstep hn (by omega)
    have hlen : 1 + (codesFrom s.input (s.pc + 14) (samplesAt s s.pc - 1)).length = samplesAt s s.pc := by
      rw [length_codesFrom]
      omega
    have hrecord := (Entered.keyframe hr).completed hdone (h.walking hr).noFault hlen
    rw [working_seeded] at hrecord
    exact ⟨t, hrun, hrecord⟩

end Sys2Proof.Machine

/-! ## Faults and the start command (60_exceptions.md)

A step leaves the fault registers as they are or enters `FAULT` from a state whose cursor and ledger have not moved, and
what it may do to the output and to `x[PS]`, `x[SI]` when it faults in `WALK` is said once, each by one case analysis of
`StepCase`. What a start command answers is said by `hostStart_next`. -/

namespace Sys2Proof.Machine

/-! ### The start command -/

/-- `s` with the start command given: the input, its length and `DUP` (R231). -/
def loaded (bytes : List Byte) (dup : Bool) (s : State) : State :=
  { s with started := true, input := Memory.ofBytes 0 bytes, bufLen := bytes.length, dup := dup }

/-- A start with initial values that the host names (R7, R231). -/
theorem hostStart_given {s : State} (hr : s.runState = .idle) (hs : s.started = false) (bytes : List Byte) (dup : Bool)
    (p : Sample) (i : BitVec 8) :
    hostStart bytes dup (some (p, i)) s =
      if i.toNat ≤ siMax then .next { loaded bytes dup s with ps := p, si := i } else .refused .initNotAdmitted :=
  if_pos ⟨hr, hs⟩

theorem hostStart_refused {s : State} (h : s.runState ≠ .idle ∨ s.started = true) (bytes : List Byte) (dup : Bool)
    (g : Option (Sample × BitVec 8)) : hostStart bytes dup g s = .refused .startNotIdle := by
  refine if_neg fun ⟨hr, hs⟩ => ?_
  obtain h | h := h
  · exact h hr
  · exact absurd (hs.symm.trans h) (by decide)

/-- Everything an accepted start does: in `IDLE` it loads the input, and `x[PS]`, `x[SI]` take admitted values, or stay
(R7, R231). -/
theorem hostStart_next {bytes : List Byte} {dup : Bool} {g : Option (Sample × BitVec 8)} {s t : State}
    (h : hostStart bytes dup g s = .next t) :
    s.runState = .idle ∧ ∃ p i, (i = s.si ∨ i.toNat ≤ siMax) ∧ t = { loaded bytes dup s with ps := p, si := i } := by
  by_cases hd : s.runState = .idle ∧ s.started = false
  · obtain ⟨hr, hs⟩ := hd
    refine ⟨hr, ?_⟩
    cases g with
    | none =>
      have hnone : hostStart bytes dup none s = .next (loaded bytes dup s) := if_pos ⟨hr, hs⟩
      rw [hnone] at h
      cases h
      exact ⟨s.ps, s.si, .inl rfl, rfl⟩
    | some q =>
      obtain ⟨p, i⟩ := q
      rw [hostStart_given hr hs] at h
      split at h
      · rename_i hi
        cases h
        exact ⟨p, i, .inr hi, rfl⟩
      · cases h
  · have hrefused : hostStart bytes dup g s = .refused .startNotIdle := if_neg hd
    rw [hrefused] at h
    cases h

/-- Settles O3: a start that is due loads the bytes, which read back by `read_ofBytes`; any other one is refused. -/
theorem startLoadsTheInput : Obligations.StartLoadsTheInput := by
  refine ⟨fun s bytes dup p i hr hs => ?_, fun s bytes dup g h => hostStart_refused h bytes dup g⟩
  refine ⟨loaded bytes dup s, if_pos ⟨hr, hs⟩, rfl, fun k => ?_, ofBytes_wf 0 bytes, fun hi => ?_, fun hi => ?_⟩
  · have hread := read_ofBytes 0 k bytes
    rwa [Nat.zero_add] at hread
  · rw [hostStart_given hr hs, if_pos (show i.toNat ≤ siMax from hi)]
  · rw [hostStart_given hr hs, if_neg (Nat.not_le.2 (show siMax < i.toNat from hi))]

/-- Settles O25: a start is accepted in `IDLE` only, at cursor 0, and what it loads is canonical and inside `BUF_LEN`. -/
theorem invariantAfterStart : Obligations.InvariantAfterStart := by
  intro s t bytes dup g h hstart
  obtain ⟨hr, p, i, hi, rfl⟩ := hostStart_next hstart
  obtain ⟨hpc, -⟩ := h.idle hr
  obtain ⟨⟨hlegal, -, -, hfit⟩, ⟨hsi, hwSi⟩, ⟨-, hidle, -, -⟩, hledger, -⟩ := h
  have hinside : ∀ c ∈ Memory.ofBytes 0 bytes, c.1 < bytes.length := fun c hc => by
    obtain ⟨-, hlt, -⟩ := mem_ofBytes hc
    simpa using hlt
  have hindex : i.toNat ≤ siMax := hi.elim (fun heq => heq ▸ hsi) id
  have hcursor : CursorInv { loaded bytes dup s with ps := p, si := i } := by
    refine ⟨hpc.trans_le (Nat.zero_le _), hidle, ?_, ?_⟩ <;> simp [loaded, hr]
  have hrecord : RecordInv { loaded bytes dup s with ps := p, si := i } := by
    constructor <;> simp [loaded, hr]
  exact ⟨⟨hlegal, ofBytes_wf 0 bytes, hinside, hfit⟩, ⟨hindex, hwSi⟩, hcursor, hledger, hrecord⟩

/-- Settles O41: in `IDLE` the walker's first test is that of the start command. -/
theorem nothingRunsBeforeStart : Obligations.NothingRunsBeforeStart := fun _ hr hs => step_waiting hr hs

/-! ### The entry to FAULT -/

/-- `t` has entered `FAULT` from `s` with the cause `c`: the fault registers name the record and the cursor of `s`, and
cursor and ledger have not moved (R220, R221). -/
structure FaultEntry (s t : State) (c : FaultCause) : Prop where
  registers : t.fault = some ⟨c, s.recIndex, s.pc⟩
  pc : t.pc = s.pc
  ledger : SameLedger s t

theorem Faulted.entry {s t : State} {c : FaultCause} (h : Faulted s t c) : FaultEntry s t c := by
  obtain ⟨-, hf, hp, ha, hv, hb, hi, ho, -⟩ := h
  exact ⟨hf, hp, ⟨hi, ha, hv, hb, ho⟩⟩

theorem rejectCause_ne_notAudio (r : Reject) : rejectCause r ≠ .notAudio := by cases r <;> decide

/-- A step keeps the fault registers and does not enter `FAULT`, or it enters `FAULT` with another cause than `NotAudio`
(R32, R214, R220). -/
theorem StepCase.faultRegisters {s t : State} (h : StepCase s t) :
    (t.fault = s.fault ∧ (t.runState = .fault → s.runState = .fault)) ∨ ∃ c ≠ .notAudio, FaultEntry s t c := by
  cases h with
  | ended | waiting => exact .inl ⟨rfl, id⟩
  | headerOk | finished => exact .inl ⟨rfl, fun ht => nomatch ht⟩
  | akey | apred => exact .inl ⟨rfl, id⟩
  | video k z => exact .inl ⟨complete_fault _, fun ht => (complete_runState (enterRecord k z s)).symm.trans ht⟩
  | finish => exact .inl ⟨complete_fault _, fun ht => (complete_runState (commit s)).symm.trans ht⟩
  | code => exact .inl ⟨advanceNibble_fault s, fun ht => (advanceNibble_runState s).symm.trans ht⟩
  | headerShort | headerBad | recordShort | videoOver | codeOutside =>
    exact .inr ⟨_, by decide, rfl, rfl, ⟨rfl, rfl, rfl, rfl, rfl⟩⟩
  | rejected r =>
    obtain ⟨hfault, -⟩ := rejectRecord_faulted (headerAt s) r s
    exact .inr ⟨_, rejectCause_ne_notAudio r, hfault.entry⟩
  | audioFault k z c u _ _ _ _ _ hc hu =>
    obtain rfl | ⟨a, rfl⟩ := hu
    · exact .inr ⟨c, hc, (raiseAudio_enterRecord c k z s).1.entry⟩
    · exact .inr ⟨c, hc, (raiseAudio_setupDecode c k z s a).1.entry⟩

/-- A step that enters `FAULT` makes its entry. -/
theorem StepCase.faultEntry {s t : State} (h : StepCase s t) (hs : s.runState ≠ .fault) (ht : t.runState = .fault) :
    ∃ c, FaultEntry s t c := by
  obtain ⟨-, hback⟩ | ⟨c, -, hentry⟩ := h.faultRegisters
  · exact absurd (hback ht) hs
  · exact ⟨c, hentry⟩

/-- Settles O30: by `StepCase.faultEntry`; in `IDLE` the invariant has record index and cursor at 0. -/
theorem faultEntryRecordsIndexAndOffset : Obligations.FaultEntryRecordsIndexAndOffset := by
  intro s t hs hstep ht
  obtain ⟨c, hfault, hpc, hi, ha, hv, hb, ho⟩ := (step_cases hstep).faultEntry hs ht
  refine ⟨c, hfault, hpc, ha, hv, hb, hi, ho, fun hinv hr => ?_⟩
  obtain ⟨-, -, ⟨-, hidle, -⟩, -⟩ := hinv
  obtain ⟨hp0, -, hi0, -⟩ := hidle hr
  rw [hfault, hi0, hp0]

/-- Settles O32: by `StepCase.faultRegisters`. -/
theorem notAudioIsNeverRaised : Obligations.NotAudioIsNeverRaised := by
  intro s t hbefore hstep i hi
  obtain ⟨hsame, -⟩ | ⟨c, hc, hentry⟩ := (step_cases hstep).faultRegisters
  · exact hbefore i (hsame.symm.trans hi)
  · rw [hentry.registers] at hi
    cases hi
    exact hc

/-! ### What a fault leaves of the output -/

/-- A record of an audio kind has the audio type (R82). -/
theorem kindHeader_typ_of_audio (cfg : Config) {k : RecKind} (hk : isAudio k = true) (z : Word32) :
    (kindHeader cfg k z).typ = cfg.codeAudio := by
  cases k with
  | audioKeyframe | audioPredict => rfl
  | videoKeyframe | videoPredict | videoHold => exact absurd hk Bool.false_ne_true

/-- The record whose header stands in the record registers is no audio record: the fetch was cut short, or its type is another
one (R222; log 8). -/
def NoAudioRecord (cfg : Config) (t : State) : Prop := t.recValid = false ∨ t.recType ≠ cfg.codeAudio

theorem not_noAudioRecord {cfg : Config} {t : State} (hv : t.recValid = true) (ht : t.recType = cfg.codeAudio) :
    ¬ NoAudioRecord cfg t := by simp [NoAudioRecord, hv, ht]

/-- A rejected header keeps `x[PS]`, `x[SI]` where it is not of the audio type (R222; log 8). -/
theorem rejectRecord_adpcm_of_noAudioRecord {h : RecHeader} {r : Reject} {s : State}
    (hno : NoAudioRecord s.cfg (rejectRecord h r s)) :
    (rejectRecord h r s).ps = s.ps ∧ (rejectRecord h r s).si = s.si := by
  refine rejectRecord_adpcm (fun ha => ?_) r
  obtain ⟨htype, -⟩ := rejectRecord_registers h r s
  have hvalid : (rejectRecord h r s).recValid = true := by unfold rejectRecord; split <;> rfl
  exact not_noAudioRecord hvalid (htype.trans ha) hno

/-- A step of the walk that faults either leaves the output as it is, and `x[PS]`, `x[SI]` too where the record is no audio
record, or is a code whose byte lies outside the window (R222). -/
theorem StepCase.faultInWalk {s t : State} (h : StepCase s t) (hr : s.runState = .walk) (ht : t.runState = .fault) :
    (t.out = s.out ∧ (NoAudioRecord s.cfg t → t.ps = s.ps ∧ t.si = s.si))
      ∨ (s.seq = .decode ∧ t = raiseAudio .outOfBounds s) := by
  have hwalk : s.runState ≠ .fault := by simp [hr]
  cases h with
  | waiting hidle | headerShort hidle | headerOk _ hidle | headerBad _ hidle =>
    exact absurd (hidle.symm.trans hr) (by decide)
  | finished => exact nomatch ht
  | ended | akey | apred => exact absurd ht hwalk
  | video | finish => exact absurd ((complete_runState _).symm.trans ht) hwalk
  | code => exact absurd ((advanceNibble_runState s).symm.trans ht) hwalk
  | recordShort | videoOver => exact .inl ⟨rfl, fun _ => ⟨rfl, rfl⟩⟩
  | rejected r => exact .inl ⟨(rejectRecord_faulted _ r s).2, rejectRecord_adpcm_of_noAudioRecord⟩
  | audioFault k z c u _ _ hk _ _ _ hu =>
    have htype := kindHeader_typ_of_audio s.cfg hk z
    obtain rfl | ⟨a, rfl⟩ := hu
    · exact .inl ⟨(raiseAudio_enterRecord c k z s).2, fun hno => absurd hno (not_noAudioRecord rfl htype)⟩
    · exact .inl ⟨(raiseAudio_setupDecode c k z s a).2, fun hno => absurd hno (not_noAudioRecord rfl htype)⟩
  | codeOutside _ hs => exact .inr ⟨hs, rfl⟩

/-- What a faulting audio record leaves: the cells before its first one, and no more cells than there were (R222, U3). -/
theorem unsettle_out_bounds {s : State} (h : s.recStart ≤ s.out.length) :
    (unsettle s).out.take s.recStart = s.out.take s.recStart ∧ (unsettle s).out.length ≤ s.out.length := by
  have htail := freeTail_length_le s.freeCtr (s.out.length - s.recStart)
  have hlen : (s.out.take s.recStart).length = s.recStart := List.length_take_of_le h
  rw [unsettle_out]
  refine ⟨List.take_left' hlen, ?_⟩
  rw [List.length_append, hlen]
  omega

/-- Settles O31: by `StepCase.faultInWalk`; the bounds of the new state are those of the invariant, which the step keeps. -/
theorem faultKeepsCompletedOutput : Obligations.FaultKeepsCompletedOutput := by
  intro s t h hr hstep ht
  have hsound : Sound t := (everyStepKeepsTheInvariant s t h hstep).sound
  have ⟨hsi, _⟩ := hsound.index
  obtain ⟨_, hentry⟩ := (step_cases hstep).faultEntry (by simp [hr]) ht
  have hend : recEnd s.recOut ≤ t.out.length := hentry.ledger.recOut ▸ hsound.output
  obtain ⟨hout, hkept⟩ | ⟨hs, rfl⟩ := (step_cases hstep).faultInWalk hr ht
  · exact ⟨by rw [hout], hend, hout ▸ Nat.le_refl _, hsi, fun _ hno => ⟨hout, hkept hno⟩⟩
  · have hstart := (h.decoding hr hs).start
    obtain ⟨htake, hlen⟩ := unsettle_out_bounds (hstart ▸ h.sound.output : s.recStart ≤ s.out.length)
    rw [hstart] at htake
    exact ⟨htake, hend, hlen, hsi, fun hfetch => nomatch hs.symm.trans hfetch⟩

end Sys2Proof.Machine

/-! ## Reset (70_reset_and_hazards.md)

Of the old state a reset reads only the parameters of the block (R240, R42). -/

namespace Sys2Proof.Machine

@[simp] theorem hostReset_eq (s : State) : hostReset s = { State.reset with cfg := s.cfg } := rfl

/-- At the parameters `State.reset` itself holds, nothing of the old state is left (R240). -/
theorem hostReset_of_defaultConfig {s : State} (h : s.cfg = defaultConfig) : hostReset s = State.reset := by
  rw [hostReset_eq, h]
  rfl

/-- Settles O2, by what a reset reads of the old state. -/
theorem resetDiscardsTheRun : Obligations.ResetDiscardsTheRun :=
  fun s => ⟨hostReset_eq s, hostReset_of_defaultConfig⟩

end Sys2Proof.Machine
